-- ==== Sys2Proof/Word.lean ====
section
/-! DEFINITION. The words of the unit: 16-bit latches and operands, 32-bit working registers and the wide operand,
the 48-bit command word (00_scope.md R5, 30_encoding.md R60). Bit 0 is the least significant bit (R10). -/

namespace Sys2Proof

/-- `WN` = 16: a fixed-point value, a result latch (R5, R23). -/
abbrev Narrow := BitVec 16

/-- `WW` = 32: a working register, the operand `W` (R5, R25). -/
abbrev Wide := BitVec 32

/-- One command word (R60). -/
abbrev CommandWord := BitVec 48

end Sys2Proof
end

