-- ==== Sys2Proof/Syntax.lean ====
section
/-! DEFINITION. The sixteen operations of the unit, one constructor per row of the opcode table
(30_encoding.md R62), each with its operand VALUES as R61 assembles them: `A`, `B` and `W` are signed integers,
fractional-bit counts and `N5` are natural numbers, `N6` is a signed integer. Operand order follows R64. -/

namespace Sys2Proof

inductive Instr where
  /-- `SAT w` (R100). -/
  | sat (w : Int)
  /-- `RSHR w, n` (R101). -/
  | rshr (w : Int) (n : Nat)
  /-- `SSHIFT w, n` (R102). -/
  | sshift (w : Int) (n : Int)
  /-- `SQRT x, q<f>` (R122). -/
  | sqrt (x : Int) (f : Nat)
  /-- `CBRT a, q<f>` (R124). -/
  | cbrt (a : Int) (f : Nat)
  /-- `SINCOS angle` (R146). -/
  | sincos (a : Int)
  /-- `TAN angle, q<f>`, `f` the format of the result (R147). -/
  | tan (a : Int) (f : Nat)
  /-- `ATAN2 y, x` (R149). -/
  | atan2 (y x : Int)
  /-- `ATAN y, q<f>`, `f` the format of `y` (R150). -/
  | atan (y : Int) (f : Nat)
  /-- `ASIN x` (R152). -/
  | asin (x : Int)
  /-- `ACOS x` (R153). -/
  | acos (x : Int)
  /-- `SINH q<fy>, x, q<fx>` (R189). -/
  | sinh (fy : Nat) (x : Int) (fx : Nat)
  /-- `COSH q<fy>, x, q<fx>` (R190). -/
  | cosh (fy : Nat) (x : Int) (fx : Nat)
  /-- `TANH q<fy>, x, q<fx>` (R191). -/
  | tanh (fy : Nat) (x : Int) (fx : Nat)
  /-- `CLRERR` (R210). -/
  | clrerr
  /-- `RDERR` (R211). -/
  | rderr
  deriving DecidableEq, Repr

end Sys2Proof
end

