-- ==== Sys2Proof/WellFormed.lean ====
section
/-! DEFINITION. Which instruction terms a command word can carry: every operand in the range of its field
(30_encoding.md R61). Every value in range is legal for every operation that uses the field (R73), so there is no
further check. -/

namespace Sys2Proof

/-- A field `A` or `B`: sext_16. -/
def narrowOk (v : Int) : Bool := decide (-32768 ≤ v) && decide (v ≤ 32767)

/-- The field `W`: sext_32. -/
def wideOk (v : Int) : Bool := decide (-2147483648 ≤ v) && decide (v ≤ 2147483647)

/-- A field `FX` or `FY`: zext_4. -/
def fracOk (f : Nat) : Bool := decide (f ≤ 15)

/-- The field `N5`: zext_5. -/
def shift5Ok (n : Nat) : Bool := decide (n ≤ 31)

/-- The field `N6`: sext_6. -/
def shift6Ok (n : Int) : Bool := decide (-32 ≤ n) && decide (n ≤ 31)

/-- The operands of `i` are values its fields can hold. -/
def Instr.wf : Instr → Bool
  | .sat w => wideOk w
  | .rshr w n => wideOk w && shift5Ok n
  | .sshift w n => wideOk w && shift6Ok n
  | .sqrt x f => narrowOk x && fracOk f
  | .cbrt a f => narrowOk a && fracOk f
  | .sincos a => narrowOk a
  | .tan a f => narrowOk a && fracOk f
  | .atan2 y x => narrowOk y && narrowOk x
  | .atan y f => narrowOk y && fracOk f
  | .asin x => narrowOk x
  | .acos x => narrowOk x
  | .sinh fy x fx => fracOk fy && narrowOk x && fracOk fx
  | .cosh fy x fx => fracOk fy && narrowOk x && fracOk fx
  | .tanh fy x fx => fracOk fy && narrowOk x && fracOk fx
  | .clrerr => true
  | .rderr => true

end Sys2Proof
end

