-- ==== Sys2Proof/Decode.lean ====
section
/-! DEFINITION. The decoder of 30_encoding.md: the fields of a command word (R60, R61), the opcode map with its
must-be-zero fields (R62), illegal words by name (R72); and after it the encoder, written from the same tables. -/

namespace Sys2Proof

/-! ## Fields of a command word (R60) -/

/-- `OPC` = c[47:40]. -/
def opcBits (c : CommandWord) : BitVec 8 := c.extractLsb' 40 8

/-- `FY` = c[39:36]. -/
def fyBits (c : CommandWord) : BitVec 4 := c.extractLsb' 36 4

/-- `FX` = c[35:32]. -/
def fxBits (c : CommandWord) : BitVec 4 := c.extractLsb' 32 4

/-- `B` = c[31:16]. -/
def bBits (c : CommandWord) : BitVec 16 := c.extractLsb' 16 16

/-- `A` = c[15:0]. -/
def aBits (c : CommandWord) : BitVec 16 := c.extractLsb' 0 16

/-- `W` = c[31:0], overlaying `B` and `A`. -/
def wBits (c : CommandWord) : BitVec 32 := c.extractLsb' 0 32

/-- `N5` = c[36:32], overlaying `FX` and the low bit of `FY`. -/
def n5Bits (c : CommandWord) : BitVec 5 := c.extractLsb' 32 5

/-- `N6` = c[37:32], overlaying `FX` and the low two bits of `FY`. -/
def n6Bits (c : CommandWord) : BitVec 6 := c.extractLsb' 32 6

/-! ## Operand values (R61) -/

def valFY (c : CommandWord) : Nat := (fyBits c).toNat
def valFX (c : CommandWord) : Nat := (fxBits c).toNat
def valB (c : CommandWord) : Int := (bBits c).toInt
def valA (c : CommandWord) : Int := (aBits c).toInt
def valW (c : CommandWord) : Int := (wBits c).toInt
def valN5 (c : CommandWord) : Nat := (n5Bits c).toNat
def valN6 (c : CommandWord) : Int := (n6Bits c).toInt

/-! ## The decoder -/

/-- Why a command word is illegal (R72). -/
inductive IllegalReason where
  /-- `OPC` is not in the table of R62. -/
  | reservedOpcode
  /-- A must-be-zero field of the row is not zero. -/
  | nonzeroField
  deriving DecidableEq, Repr

/-- "It returns an operation with its operand values, or `illegal`" (R72). -/
inductive Decoded where
  | operation (i : Instr)
  | illegal (why : IllegalReason)
  deriving DecidableEq, Repr

/-- The operation, if the must-be-zero fields of its row are zero. -/
def ifZero (zero : Bool) (i : Instr) : Decoded :=
  if zero then .operation i else .illegal .nonzeroField

/-- Decode one command word (R62, column "fields that must be zero"). -/
def decode (c : CommandWord) : Decoded :=
  match (opcBits c).toNat with
  | 0x01 => ifZero (c.extractLsb' 32 8 == 0#8) (.sat (valW c))
  | 0x02 => ifZero (c.extractLsb' 37 3 == 0#3) (.rshr (valW c) (valN5 c))
  | 0x03 => ifZero (c.extractLsb' 38 2 == 0#2) (.sshift (valW c) (valN6 c))
  | 0x10 => ifZero (fyBits c == 0#4 && bBits c == 0#16) (.sqrt (valA c) (valFX c))
  | 0x11 => ifZero (fyBits c == 0#4 && bBits c == 0#16) (.cbrt (valA c) (valFX c))
  | 0x20 => ifZero (fyBits c == 0#4 && fxBits c == 0#4 && bBits c == 0#16) (.sincos (valA c))
  | 0x21 => ifZero (fxBits c == 0#4 && bBits c == 0#16) (.tan (valA c) (valFY c))
  | 0x22 => ifZero (fyBits c == 0#4 && fxBits c == 0#4) (.atan2 (valA c) (valB c))
  | 0x23 => ifZero (fyBits c == 0#4 && bBits c == 0#16) (.atan (valA c) (valFX c))
  | 0x24 => ifZero (fyBits c == 0#4 && fxBits c == 0#4 && bBits c == 0#16) (.asin (valA c))
  | 0x25 => ifZero (fyBits c == 0#4 && fxBits c == 0#4 && bBits c == 0#16) (.acos (valA c))
  | 0x30 => ifZero (bBits c == 0#16) (.sinh (valFY c) (valA c) (valFX c))
  | 0x31 => ifZero (bBits c == 0#16) (.cosh (valFY c) (valA c) (valFX c))
  | 0x32 => ifZero (bBits c == 0#16) (.tanh (valFY c) (valA c) (valFX c))
  | 0xF0 => ifZero (c.extractLsb' 0 40 == 0#40) .clrerr
  | 0xF1 => ifZero (c.extractLsb' 0 40 == 0#40) .rderr
  | _ => .illegal .reservedOpcode

/-- The instruction, if the word is one. -/
def Decoded.instr? : Decoded → Option Instr
  | .operation i => some i
  | .illegal _ => none

/-! ## The encoder -/

/-- A word of the one format: `OPC FY FX B A` (R60). -/
def mkWord (opc : BitVec 8) (fy fx : BitVec 4) (b a : BitVec 16) : CommandWord :=
  opc ++ fy ++ fx ++ b ++ a

/-- A word of a shift primitive: `OPC`, the bits 39..32, and `W` (R60). -/
def mkWide (opc : BitVec 8) (hi : BitVec 8) (w : BitVec 32) : CommandWord :=
  opc ++ hi ++ w

/-- The command word of an instruction; unnamed fields are zero (R75). -/
def encode : Instr → CommandWord
  | .sat w => mkWide 0x01#8 0#8 (BitVec.ofInt 32 w)
  | .rshr w n => mkWide 0x02#8 (0#3 ++ BitVec.ofNat 5 n) (BitVec.ofInt 32 w)
  | .sshift w n => mkWide 0x03#8 (0#2 ++ BitVec.ofInt 6 n) (BitVec.ofInt 32 w)
  | .sqrt x f => mkWord 0x10#8 0#4 (BitVec.ofNat 4 f) 0#16 (BitVec.ofInt 16 x)
  | .cbrt a f => mkWord 0x11#8 0#4 (BitVec.ofNat 4 f) 0#16 (BitVec.ofInt 16 a)
  | .sincos a => mkWord 0x20#8 0#4 0#4 0#16 (BitVec.ofInt 16 a)
  | .tan a f => mkWord 0x21#8 (BitVec.ofNat 4 f) 0#4 0#16 (BitVec.ofInt 16 a)
  | .atan2 y x => mkWord 0x22#8 0#4 0#4 (BitVec.ofInt 16 x) (BitVec.ofInt 16 y)
  | .atan y f => mkWord 0x23#8 0#4 (BitVec.ofNat 4 f) 0#16 (BitVec.ofInt 16 y)
  | .asin x => mkWord 0x24#8 0#4 0#4 0#16 (BitVec.ofInt 16 x)
  | .acos x => mkWord 0x25#8 0#4 0#4 0#16 (BitVec.ofInt 16 x)
  | .sinh fy x fx => mkWord 0x30#8 (BitVec.ofNat 4 fy) (BitVec.ofNat 4 fx) 0#16 (BitVec.ofInt 16 x)
  | .cosh fy x fx => mkWord 0x31#8 (BitVec.ofNat 4 fy) (BitVec.ofNat 4 fx) 0#16 (BitVec.ofInt 16 x)
  | .tanh fy x fx => mkWord 0x32#8 (BitVec.ofNat 4 fy) (BitVec.ofNat 4 fx) 0#16 (BitVec.ofInt 16 x)
  | .clrerr => mkWord 0xF0#8 0#4 0#4 0#16 0#16
  | .rderr => mkWord 0xF1#8 0#4 0#4 0#16 0#16

/-! ## Words as the opcode table numbers them -/

/-- The command word whose low `nbits` bits are `w` and whose other bits are zero (log 15). -/
def tableWord (nbits w : Nat) : CommandWord := BitVec.ofNat 48 (w % 2 ^ nbits)

/-- What the decoder reads from a word of spec/opcode_table.json. -/
def decodeTableWord (nbits w : Nat) : Option Instr := (decode (tableWord nbits w)).instr?

end Sys2Proof
end

