-- ==== Sys2Proof/Config.lean ====
section
/-! DEFINITION. What is fixed for the unit (92_eei_decisions.md P3, P7) and the free values of the model. The
constants that the spec leaves open as parameters (P1, P2, P4 to P6) are not here but in the ROMs of State. -/

namespace Sys2Proof.Config

/-- +pi, delivered as the largest representable angle (10_state.md R32). -/
def piNorm : Int := 32767

/-- +pi/2 (R32). -/
def halfPiNorm : Int := 16384

/-- The exponent magnitude from which the hyperbolic core short-circuits (R36). -/
def nLimit : Nat := 16

/-- 12.0 with 15 fractional bits (R36). -/
def tanhThresh : Int := 393216

/-- Number of circular micro-rotations, indices 0..13 (00_scope.md R6). -/
def nCirc : Nat := 14

/-- The eighteen hyperbolic micro-rotation indices: 4 and 13 are executed twice (R6, 90_conflicts.md C3). -/
def hypSeq : List Nat := [1, 2, 3, 4, 4, 5, 6, 7, 8, 9, 10, 11, 12, 13, 13, 14, 15, 16]

/-- Newton steps of the cube root (R6). -/
def cbrtIters : Nat := 17

/-- FREE VALUE (log 6): the k-th unspecified 16-bit result, `R0` after `CBRT` of a negative operand
(41_root_solvers.md R124, 93_implementation_defined.md U1). -/
opaque freeNarrow : Nat → Narrow

/-- FREE VALUE (log 6): what that operation leaves in the internal register `XC`. -/
opaque freeWide : Nat → Wide

/-- FREE VALUE (log 6): what that operation leaves in the internal register `I`. -/
opaque freeIndex : Nat → BitVec 5

/-- FREE VALUE (log 8): the quotient of a division whose divisor is zero. With the default constants no rule divides
by zero (40_primitives.md R105); with other constants `TANH` can. -/
opaque rdivByZero : Int → Int

end Sys2Proof.Config
end

