-- ==== Sys2Proof/Machine/Flags.lean ====
section
/-! DEFINITION. The error indicator, the unit's only status (10_state.md R21, R27): its codes, and when the operations
that have a domain restriction signal (60_exceptions.md R222). There are no condition codes; saturation sets nothing
(R220). -/

namespace Sys2Proof.Machine

/-- The kinds of signal the source names. The unit signals only `domain`; `range` keeps its code (R21, R221). -/
inductive ErrKind where
  | domain
  | range
  deriving DecidableEq, Repr

/-- `ERR` code 0, NONE (R21). -/
def errNone : BitVec 2 := 0

/-- The codes 1, DOMAIN, and 2, RANGE (R21). -/
def ErrKind.code : ErrKind → BitVec 2
  | .domain => 1
  | .range => 2

/-- `sqrt_core` signals DOMAIN for a negative operand (41_root_solvers.md R121). -/
def sqrtSignals (x : Int) : Bool := decide (x < 0)

/-- `TAN` signals DOMAIN for exactly +pi/2 and -pi/2 (42_circular_cordic.md R147). -/
def tanSignals (a : Int) : Bool := decide (a = 16384) || decide (a = -16384)

end Sys2Proof.Machine
end

