-- ==== Sys2Proof/Machine/Operands.lean ====
section
/-! DEFINITION. The integer functions every operation is written in: the width functions of 00_scope.md R9, the stored
patterns of R10, the helpers of 40_primitives.md R90 to R96, and the format adaptations of 43_hyperbolic_cordic.md
R181 and R188. Values are unbounded integers; a width is imposed only where a function here imposes it (R9). -/

namespace Sys2Proof.Machine

/-! ## Width functions (R9) and stored patterns (R10) -/

/-- `sat16`, the source's `saturate` (R9, R90). -/
def sat16 (v : Int) : Int := if v < -32768 then -32768 else if v > 32767 then 32767 else v

/-- `sat32` (R9, R91). -/
def sat32 (v : Int) : Int :=
  if v < -2147483648 then -2147483648 else if v > 2147483647 then 2147483647 else v

/-- `wrap32`: the 32-bit signed integer congruent to `v` modulo 2^32 (R9). -/
def wrap32 (v : Int) : Int := Int.bmod v 4294967296

/-- `asr`: arithmetic shift right, toward minus infinity (R9). -/
def asr (v : Int) (i : Nat) : Int := v / 2 ^ i

/-- `v << i`, exact (R9). -/
def shl (v : Int) (i : Nat) : Int := v * 2 ^ i

/-- `enc16`: the pattern a 16-bit register stores (R10). -/
def enc16 (v : Int) : Narrow := BitVec.ofInt 16 v

/-- `enc32` (R10). -/
def enc32 (v : Int) : Wide := BitVec.ofInt 32 v

/-! ## Shifts (R92, R93) -/

/-- `rsr`: right shift rounded to nearest, an exact half away from zero (R92). -/
def rsr (v : Int) (n : Nat) : Int :=
  if n = 0 then v
  else if 0 ≤ v then asr (v + 2 ^ (n - 1)) n
  else -asr (-v + 2 ^ (n - 1)) n

/-- `sshift`: positive amounts shift right with rounding, negative amounts shift left and wrap to 32 bits (R93). -/
def sshift (v : Int) (n : Int) : Int :=
  if 0 < n then rsr v n.toNat
  else if n = 0 then v
  else wrap32 (shl v (-n).toNat)

/-! ## Saturating add, rounding multiply and divide (R94 to R96) -/

def sadd32 (a b : Int) : Int := sat32 (a + b)

def qmul15 (a b : Int) : Int := sat32 (rsr (a * b) 15)

/-- `rdiv`: division rounded to nearest, an exact half away from zero (R96). The rule is for `den ≠ 0`; a zero divisor,
which no rule of the spec reaches with the default constants, gives a free value (log 8). -/
def rdiv (num den : Int) : Int :=
  if den = 0 then Config.rdivByZero num
  else
    let q : Int := (2 * (num.natAbs : Int) + (den.natAbs : Int)) / (2 * (den.natAbs : Int))
    if num = 0 ∨ (0 < num ∧ 0 < den) ∨ (num < 0 ∧ den < 0) then q else -q

/-- `qdiv15` (R96): not saturated here. -/
def qdiv15 (a b : Int) : Int := rdiv (shl a 15) b

/-! ## Format adaptation -/

/-- `toq15`: a 16-bit operand in format `fx` as a wide value with 15 fractional bits (R181). -/
def toq15 (x : Int) (fx : Nat) : Int := shl x (15 - fx)

/-- A wide value with 15 fractional bits in format `fy`, through the shift primitive, saturated
(R188; 42_circular_cordic.md R147 uses the same rescale). -/
def fromq15 (v : Int) (fy : Nat) : Int := sat16 (sshift v (15 - (fy : Int)))

end Sys2Proof.Machine
end

