-- ==== Sys2Proof/Machine/Rom.lean ====
section
/-! DEFINITION. The constant ROMs of 10_state.md R30, R31, R33 to R35: parameters of the unit (00_scope.md R7,
92_eei_decisions.md P1, P2, P4 to P6) with the defaults the spec computed. -/

namespace Sys2Proof.Machine

/-- The contents of the ROMs, as integers. No operation writes them (R20). -/
structure Rom where
  /-- `ATAN_PI_Q15[0..13]` (R30). -/
  atanPiQ15 : Vector Int 14
  /-- `K_CIRC` (R31). -/
  kCirc : Int
  /-- `ATANH_Q15[1..16]`; position `i - 1` holds entry `i` (R33). -/
  atanhQ15 : Vector Int 16
  /-- `K_HYP` (R34). -/
  kHyp : Int
  /-- `LN2_Q15` (R35). -/
  ln2Q15 : Int
  /-- `INV_LN2_Q15` (R35). -/
  invLn2Q15 : Int
  deriving DecidableEq, Repr

/-- The defaults of R30, R31, R33, R34 and R35. -/
def Rom.default : Rom where
  atanPiQ15 := #v[8192, 4836, 2555, 1297, 651, 326, 163, 81, 41, 20, 10, 5, 3, 1]
  kCirc := 19898
  atanhQ15 := #v[18000, 8369, 4118, 2051, 1024, 512, 256, 128, 64, 32, 16, 8, 4, 2, 1, 1]
  kHyp := 39567
  ln2Q15 := 22713
  invLn2Q15 := 47274

/-- Entry `i` of the arctangent table, 0 ≤ i ≤ 13. -/
def Rom.atan (rom : Rom) (i : Nat) : Int := rom.atanPiQ15.toList.getD i 0

/-- Entry `i` of the hyperbolic table, 1 ≤ i ≤ 16. -/
def Rom.atanh (rom : Rom) (i : Nat) : Int := rom.atanhQ15.toList.getD (i - 1) 0

/-- The circular micro-rotations in order: index and elementary angle (42_circular_cordic.md R140). -/
def Rom.circSteps (rom : Rom) : List (Nat × Int) :=
  (List.range Config.nCirc).map fun i => (i, rom.atan i)

/-- The hyperbolic micro-rotations in order, repeats included (43_hyperbolic_cordic.md R183). -/
def Rom.hypSteps (rom : Rom) : List (Nat × Int) :=
  Config.hypSeq.map fun i => (i, rom.atanh i)

end Sys2Proof.Machine
end

