-- ==== Sys2Proof/Machine/State.lean ====
section
/-! DEFINITION. The state of the unit (10_state.md), as plain data: the error indicator, the two result latches, the
working registers, the constant ROMs, the answer at the command port; and, the model's own, the host events still to
come, whether each latch has been written since reset, and the counter of free values. -/

namespace Sys2Proof.Machine

/-- The two readable latches (20_memory.md R52). -/
inductive Latch where
  | r0
  | r1
  deriving DecidableEq, Repr

/-- What the outside world does to the unit (20_memory.md R50; 70_reset_and_hazards.md R240, R241). -/
inductive HostEvent where
  /-- Issue a command word (R51). -/
  | issue (c : CommandWord)
  /-- Read a latch (R52). -/
  | read (l : Latch)
  /-- Reset between commands (R240). -/
  | reset
  /-- Issue a command word and apply reset while its operation is in progress (R241). -/
  | resetDuring (c : CommandWord)
  deriving DecidableEq, Repr

/-- What the unit answers to a host event. -/
inductive Answer where
  /-- The operation has run to completion (R51). -/
  | done
  /-- The word is not a command; nothing has changed (R72). -/
  | illegal
  /-- The contents of the latch that was read (R23). -/
  | data (v : Narrow)
  /-- The latch that was read has not been written since reset and has no defined value (R23, R37). -/
  | noValue
  deriving DecidableEq, Repr

/-- The working registers of 10_state.md R25, internal to the unit. -/
structure Work where
  x : Wide
  y : Wide
  z : Wide
  i : BitVec 5
  flip : BitVec 1
  corr : Wide
  rem : Wide
  res : Wide
  bit : Wide
  xc : Wide
  n : Wide
  rr : Wide
  deriving DecidableEq, Repr

structure State where
  /-- `ERR` (R21). -/
  err : BitVec 2
  /-- `R0` (R23). -/
  r0 : Narrow
  /-- `R1` (R23). -/
  r1 : Narrow
  /-- The working registers (R25). -/
  work : Work
  /-- The constant ROMs (R20, R30 to R35). -/
  rom : Rom
  /-- `R0` has been written since reset (model's own, log 2). -/
  r0Written : Bool
  /-- `R1` has been written since reset (model's own, log 2). -/
  r1Written : Bool
  /-- The answer to the most recent host event; none since reset (R51). -/
  answer : Option Answer
  /-- The host events still to come, the next one first (model's own, log 1). -/
  pending : List HostEvent
  /-- How many free values have been used (model's own, log 6). -/
  draws : Nat
  deriving DecidableEq, Repr

/-- The reasons for which the unit stops with a fault: NONE. "Nothing in the unit is `fault` or `stuck`"
(93_implementation_defined.md part 1; 60_exceptions.md R224, 70_reset_and_hazards.md R251). Nobody raises one. -/
inductive Fault where
  deriving DecidableEq, Repr

/-- The reasons for which the model refuses to go on. -/
inductive Refusal where
  /-- Raised by exec for an instruction that has no meaning yet; safe. No arm raises it: all sixteen have theirs. -/
  | notModelled (mnemonic : String)
  deriving DecidableEq, Repr

/-- The working registers after reset: the spec gives no value (R37); DESIGN CHOICE zero (log 3). -/
def Work.reset : Work where
  x := 0
  y := 0
  z := 0
  i := 0
  flip := 0
  corr := 0
  rem := 0
  res := 0
  bit := 0
  xc := 0
  n := 0
  rr := 0

/-- The unit right after reset (R37, R240): `ERR` = NONE, the ROMs hold their constants, the unit is idle. `R0` and
`R1` have no defined value: DESIGN CHOICE zero, marked unwritten (log 2). -/
def State.reset : State where
  err := 0
  r0 := 0
  r1 := 0
  work := Work.reset
  rom := Rom.default
  r0Written := false
  r1Written := false
  answer := none
  pending := []
  draws := 0

end Sys2Proof.Machine
end

