-- ==== Sys2Proof/Machine/Ops.lean ====
section
/-! DEFINITION. The named operations over the state: writing the latches, the working registers and the error
indicator, acknowledging a command, delivering a result, signalling an error, using a free value, reading a latch,
and reset. The unit has no memory (20_memory.md R50) and no trap (60_exceptions.md R224); `signal` is what it has in
the place of taking an exception, and clearing the indicator what it has in the place of a return (R227). -/

namespace Sys2Proof.Machine

/-! ## Registers -/

/-- `R0 <- v`, the stored pattern of the integer `v` (R10, R23). -/
def State.setR0 (s : State) (v : Int) : State := { s with r0 := enc16 v, r0Written := true }

/-- `R1 <- v` (R10, R23). -/
def State.setR1 (s : State) (v : Int) : State := { s with r1 := enc16 v, r1Written := true }

/-- `R0 <- enc32(v)[15:0]`, `R1 <- enc32(v)[31:16]` (R23, 40_primitives.md R101). -/
def State.setPair (s : State) (v : Int) : State :=
  { s with
    r0 := (enc32 v).extractLsb' 0 16, r0Written := true
    r1 := (enc32 v).extractLsb' 16 16, r1Written := true }

/-- Rewrite the working registers (R25). -/
def State.mapWork (s : State) (f : Work → Work) : State := { s with work := f s.work }

/-- Give an answer at the command port (20_memory.md R51). -/
def State.respond (s : State) (a : Answer) : State := { s with answer := some a }

/-! ## The error indicator -/

/-- `signal(kind)`: `ERR <- kind`; the operation goes on and delivers its sentinel (60_exceptions.md R221). -/
def State.signal (s : State) (k : ErrKind) : State := { s with err := k.code }

/-- `signal(DOMAIN)` where the condition holds; otherwise `ERR` keeps its value (R223). -/
def State.signalDomainIf (s : State) (b : Bool) : State := if b then s.signal .domain else s

/-- `ERR <- NONE` (44_system.md R210). -/
def State.clearErr (s : State) : State := { s with err := errNone }

/-! ## Delivering results -/

/-- Complete an operation with one 16-bit result: the working registers as the operation leaves them, `R0 <- v`, and
the acknowledgement DONE, in one atomic step (20_memory.md R51, R54). -/
def State.deliver (s : State) (regs : Work → Work) (v : Int) : State :=
  ((s.mapWork regs).setR0 v).respond .done

/-- Complete an operation with a 32-bit result in both latches (R23). -/
def State.deliverPair (s : State) (v : Int) : State := (s.setPair v).respond .done

/-- Use the next free value: the counter moves on (log 6). -/
def State.draw (s : State) : State := { s with draws := s.draws + 1 }

/-! ## What the host does besides issuing commands -/

def State.latch (s : State) : Latch → Narrow
  | .r0 => s.r0
  | .r1 => s.r1

def State.latchWritten (s : State) : Latch → Bool
  | .r0 => s.r0Written
  | .r1 => s.r1Written

/-- A host read: the pattern last written, and no value from a latch that nothing has written since reset; no side
effect on the unit (R23, R37, 20_memory.md R52, R58). -/
def State.hostRead (s : State) (l : Latch) : State :=
  s.respond (if s.latchWritten l then .data (s.latch l) else .noValue)

/-- Reset (70_reset_and_hazards.md R240): every register at its reset value, nothing answered. The ROMs are part of the
unit and keep their contents; the host's plans and the counter of free values are not the unit's (log 6, log 9). -/
def State.applyReset (s : State) : State :=
  { State.reset with rom := s.rom, pending := s.pending, draws := s.draws }

end Sys2Proof.Machine
end

