-- ==== Sys2Proof/Machine/Cordic.lean ====
section
/-! DEFINITION. The registers `X`, `Y`, `Z`, `I` in which both CORDIC engines compute (10_state.md R25). -/

namespace Sys2Proof.Machine

/-- The vector, the residual or accumulated angle, and the index of the last micro-rotation executed. -/
structure Cordic where
  x : Int
  y : Int
  z : Int
  i : Nat
  deriving DecidableEq, Repr

/-- What the loop leaves in the 32-bit working registers (log 4). -/
def Cordic.save (v : Cordic) (w : Work) : Work :=
  { w with x := enc32 v.x, y := enc32 v.y, z := enc32 v.z, i := BitVec.ofNat 5 v.i }

end Sys2Proof.Machine
end

