-- ==== Sys2Proof/Machine/Roots.lean ====
section
/-! DEFINITION. The iterative root solvers (41_root_solvers.md): the restoring integer square root and the Newton cube
root, with `SQRT` and `CBRT`. -/

namespace Sys2Proof.Machine

/-! ## Square root -/

/-- The registers `REM`, `RES`, `BIT` of the restoring root, unsigned, and the step index `I` (R120). -/
structure Root where
  rem : Nat
  res : Nat
  bit : Nat
  i : Nat
  deriving DecidableEq, Repr

/-- "start at the highest even bit not above v": at most `fuel` shifts by two (R120, first loop). -/
def rootStart (v : Nat) : Nat → Nat → Nat
  | 0, bit => bit
  | fuel + 1, bit => if bit > v then rootStart v fuel (bit / 4) else bit

/-- One step per 2-bit group until `BIT` is zero (R120, second loop); `i` is the step's index. -/
def rootLoop : Nat → Nat → Root → Root
  | 0, _, r => r
  | fuel + 1, i, r =>
    if r.bit = 0 then r
    else if r.rem ≥ r.res + r.bit then
      rootLoop fuel (i + 1) ⟨r.rem - (r.res + r.bit), r.res / 2 + r.bit, r.bit / 4, i⟩
    else
      rootLoop fuel (i + 1) ⟨r.rem, r.res / 2, r.bit / 4, i⟩

/-- The restoring root of `0 ≤ v < 2^32` with the registers it leaves (R120). Sixteen passes end each loop, since
`BIT` starts at 2^30. -/
def rootRun (v : Nat) : Root := rootLoop 16 0 ⟨v, 0, rootStart v 16 1073741824, 0⟩

/-- `isqrt` (R120). -/
def isqrt (v : Nat) : Nat := (rootRun v).res

/-- The radicand `x << f` (R121). -/
def sqrtRadicand (x : Int) (f : Nat) : Nat := (shl x f).toNat

/-- The value `sqrt_core(x, f)` returns (R121); that it signals for `x < 0` is `sqrtSignals`. -/
def sqrtCore (x : Int) (f : Nat) : Int :=
  if x < 0 then 0
  else if x = 0 then 0
  else
    let r : Int := isqrt (sqrtRadicand x f)
    if r > 32767 then 32767 else r

/-- The working registers after `sqrt_core(x, f)`: untouched when no recurrence runs (log 4). -/
def sqrtRegs (x : Int) (f : Nat) (w : Work) : Work :=
  if x ≤ 0 then w
  else
    let r := rootRun (sqrtRadicand x f)
    { w with
      rem := BitVec.ofNat 32 r.rem, res := BitVec.ofNat 32 r.res
      bit := BitVec.ofNat 32 r.bit, i := BitVec.ofNat 5 r.i }

/-- `SQRT x, q<f>` (R122). -/
def execSqrt (x : Int) (f : Nat) (s : State) : Host.Outcome State Fault Refusal :=
  .next ((s.signalDomainIf (sqrtSignals x)).deliver (sqrtRegs x f) (sqrtCore x f))

/-! ## Cube root -/

/-- One Newton step: `q = rdiv(a << 2f, x*x)`, `x = rdiv(2x + q, 3)` (R123). -/
def cbrtStep (a : Int) (f : Nat) (x : Int) : Int :=
  rdiv (2 * x + rdiv (shl a (2 * f)) (x * x)) 3

/-- `k` Newton steps from `x`. -/
def cbrtIterate (a : Int) (f : Nat) : Nat → Int → Int
  | 0, x => x
  | k + 1, x => cbrtIterate a f k (cbrtStep a f x)

/-- The iterate after all seventeen steps from 1.0 (R123). -/
def cbrtRun (a : Int) (f : Nat) : Int := cbrtIterate a f Config.cbrtIters (shl 1 f)

/-- `cbrt_core(a, f)`, for `a ≥ 0` (R123). -/
def cbrtCore (a : Int) (f : Nat) : Int := if a = 0 then 0 else sat16 (cbrtRun a f)

/-- The working registers after `cbrt_core` (log 4). -/
def cbrtRegs (a : Int) (f : Nat) (w : Work) : Work :=
  if a = 0 then w
  else { w with xc := enc32 (cbrtRun a f), i := BitVec.ofNat 5 (Config.cbrtIters - 1) }

/-- The working registers after `CBRT` of a negative operand: free values (log 6). -/
def cbrtFreeRegs (k : Nat) (w : Work) : Work :=
  { w with xc := Config.freeWide k, i := Config.freeIndex k }

/-- `CBRT a, q<f>` (R124). A negative operand violates the precondition: the operation still completes, `ERR` and `R1`
are unchanged, and `R0` receives a free value. -/
def execCbrt (a : Int) (f : Nat) (s : State) : Host.Outcome State Fault Refusal :=
  if 0 ≤ a then .next (s.deliver (cbrtRegs a f) (cbrtCore a f))
  else .next (s.draw.deliver (cbrtFreeRegs s.draws) (Config.freeNarrow s.draws).toInt)

end Sys2Proof.Machine
end

