-- ==== Sys2Proof/Machine/Circular.lean ====
section
/-! DEFINITION. The circular CORDIC engine (42_circular_cordic.md): rotation mode with `SINCOS` and `TAN`, vectoring
mode with `ATAN2`, `ATAN`, `ASIN` and `ACOS`. Angles are pi-normalised (00_scope.md R13). A core gives the operation's
result; the function of the same name ending in `Regs` says what it leaves in the working registers (log 4). -/

namespace Sys2Proof.Machine

/-! ## Rotation mode -/

/-- Step 1, mirroring: the residual angle and the cosine sign flip (R141). -/
def mirror (a : Int) : Int × Bool :=
  if a > 16384 then (32768 - a, true)
  else if a < -16384 then (-32768 - a, true)
  else (a, false)

/-- One micro-rotation toward a zero residual, `X` and `Y` saturated; a zero residual counts as non-negative
(R143, R145). -/
def rotStep (v : Cordic) (e : Nat × Int) : Cordic :=
  if 0 ≤ v.z then
    ⟨sat16 (v.x - asr v.y e.1), sat16 (v.y + asr v.x e.1), v.z - e.2, e.1⟩
  else
    ⟨sat16 (v.x + asr v.y e.1), sat16 (v.y - asr v.x e.1), v.z + e.2, e.1⟩

/-- Steps 2 and 3: all fourteen micro-rotations from `(K_CIRC, 0)` (R142, R143). -/
def rotRun (rom : Rom) (z : Int) : Cordic := rom.circSteps.foldl rotStep ⟨rom.kCirc, 0, z, 0⟩

/-- Step 4: the registers after the cosine-sign correction (R144). -/
def sincosRun (rom : Rom) (a : Int) : Cordic :=
  let v := rotRun rom (mirror a).1
  if (mirror a).2 then { v with x := sat16 (-v.x) } else v

/-- The sine of `sincos_core` (R144). -/
def sinCore (rom : Rom) (a : Int) : Int := (sincosRun rom a).y

/-- The cosine of `sincos_core` (R144). -/
def cosCore (rom : Rom) (a : Int) : Int := (sincosRun rom a).x

def sincosRegs (rom : Rom) (a : Int) (w : Work) : Work :=
  (sincosRun rom a).save { w with flip := BitVec.ofBool (mirror a).2 }

/-- `SINCOS angle` (R146). -/
def execSincos (a : Int) (s : State) : Host.Outcome State Fault Refusal :=
  .next ((s.deliver (sincosRegs s.rom a) (sinCore s.rom a)).setR1 (cosCore s.rom a))

/-- The result of `TAN` away from the asymptotes: the rounded quotient in format `f`, or the extreme with the sine's
sign when the computed cosine is zero (R147). -/
def tanQuotient (s c : Int) (f : Nat) : Int :=
  if c = 0 then (if 0 ≤ s then 32767 else -32767)
  else fromq15 (qdiv15 s c) f

/-- The value `TAN` delivers (R147). -/
def tanCore (rom : Rom) (a : Int) (f : Nat) : Int :=
  if a = 16384 then 32767
  else if a = -16384 then -32767
  else tanQuotient (sinCore rom a) (cosCore rom a) f

def tanRegs (rom : Rom) (a : Int) (w : Work) : Work :=
  if tanSignals a then w else sincosRegs rom a w

/-- `TAN angle, q<f>` (R147). -/
def execTan (a : Int) (f : Nat) (s : State) : Host.Outcome State Fault Refusal :=
  .next ((s.signalDomainIf (tanSignals a)).deliver (tanRegs s.rom a) (tanCore s.rom a f))

/-! ## Vectoring mode -/

/-- One micro-rotation toward the x-axis, accumulating the angle; nothing is saturated (R145, R148). -/
def vecStep (v : Cordic) (e : Nat × Int) : Cordic :=
  if v.y > 0 then ⟨v.x + asr v.y e.1, v.y - asr v.x e.1, v.z + e.2, e.1⟩
  else ⟨v.x - asr v.y e.1, v.y + asr v.x e.1, v.z - e.2, e.1⟩

/-- The vectoring loop with its early exit on an exactly zero residual (R148). -/
def vecLoop : List (Nat × Int) → Cordic → Cordic
  | [], v => v
  | e :: es, v => if v.y = 0 then v else vecLoop es (vecStep v e)

/-- The correction, chosen from the original signs (R148). -/
def vecCorr (y x : Int) : Int := if x < 0 then (if y > 0 then 32768 else -32768) else 0

/-- The vector reflected into the right half-plane (R148). -/
def vecStart (y x : Int) : Cordic := if x < 0 then ⟨-x, -y, 0, 0⟩ else ⟨x, y, 0, 0⟩

/-- The vectoring loop on operands off the axes (R148). -/
def vecRun (rom : Rom) (y x : Int) : Cordic := vecLoop rom.circSteps (vecStart y x)

/-- `atan2_core(y, x)` (R148). -/
def atan2Core (rom : Rom) (y x : Int) : Int :=
  if y = 0 then (if 0 ≤ x then 0 else Config.piNorm)
  else if x = 0 then (if y > 0 then Config.halfPiNorm else -Config.halfPiNorm)
  else sat16 ((vecRun rom y x).z + vecCorr y x)

/-- On an axis only `X` and `Y` are loaded; off the axes the loop's registers and the correction (log 4). -/
def atan2Regs (rom : Rom) (y x : Int) (w : Work) : Work :=
  if y = 0 ∨ x = 0 then { w with x := enc32 x, y := enc32 y }
  else (vecRun rom y x).save { w with corr := enc32 (vecCorr y x) }

/-- `ATAN2 y, x` (R149). -/
def execAtan2 (y x : Int) (s : State) : Host.Outcome State Fault Refusal :=
  .next (s.deliver (atan2Regs s.rom y x) (atan2Core s.rom y x))

/-- The scaled operand and reference of `ATAN`, and how many halvings made them (R150). -/
structure Scaled where
  ys : Int
  xs : Int
  halvings : Nat
  deriving DecidableEq, Repr

/-- "within range": both values fit the 16-bit operands of `atan2` (R150). -/
def scaledFits (v : Scaled) : Bool :=
  !(decide (v.ys > 32767) || decide (v.ys < -32768) || decide (v.xs > 32767))

/-- Halve both while one does not fit, at most `fuel` times (R150). -/
def atanLoop : Nat → Scaled → Scaled
  | 0, v => v
  | fuel + 1, v =>
    if scaledFits v then v else atanLoop fuel ⟨rsr v.ys 1, asr v.xs 1, v.halvings + 1⟩

/-- The normalised pair; fifteen halvings suffice for every 16-bit operand (R150, log 20). -/
def atanScale (y : Int) (f : Nat) : Scaled := atanLoop 15 ⟨shl y (15 - f), 32768, 0⟩

/-- The value `ATAN` delivers (R150). -/
def atanCore (rom : Rom) (y : Int) (f : Nat) : Int :=
  atan2Core rom (atanScale y f).ys (atanScale y f).xs

/-- The halvings count in `I`, then as `ATAN2` (log 4). -/
def atanRegs (rom : Rom) (y : Int) (f : Nat) (w : Work) : Work :=
  atan2Regs rom (atanScale y f).ys (atanScale y f).xs
    { w with i := BitVec.ofNat 5 ((atanScale y f).halvings - 1) }

/-- `ATAN y, q<f>` (R150). -/
def execAtan (y : Int) (f : Nat) (s : State) : Host.Outcome State Fault Refusal :=
  .next (s.deliver (atanRegs s.rom y f) (atanCore s.rom y f))

/-- `1 - x^2` with 15 fractional bits, clamped to [0, 0x7FFF] (R151). -/
def asinRadicand (x : Int) : Int :=
  let t := 32768 - qmul15 x x
  if t < 0 then 0 else if t > 32767 then 32767 else t

/-- `asin_c(x)` (R151). -/
def asinC (x : Int) : Int := sqrtCore (asinRadicand x) 15

/-- `ASIN x` (R152). The inner `sqrt_core` signals if its operand is negative, which the clamp rules out (R151,
60_exceptions.md R222). -/
def execAsin (x : Int) (s : State) : Host.Outcome State Fault Refusal :=
  .next ((s.signalDomainIf (sqrtSignals (asinRadicand x))).deliver
    (fun w => atan2Regs s.rom x (asinC x) (sqrtRegs (asinRadicand x) 15 w))
    (atan2Core s.rom x (asinC x)))

/-- `ACOS x` (R153): the axis arguments swapped. -/
def execAcos (x : Int) (s : State) : Host.Outcome State Fault Refusal :=
  .next ((s.signalDomainIf (sqrtSignals (asinRadicand x))).deliver
    (fun w => atan2Regs s.rom (asinC x) x (sqrtRegs (asinRadicand x) 15 w))
    (atan2Core s.rom (asinC x) x))

end Sys2Proof.Machine
end

