-- ==== Sys2Proof/Machine/Hyperbolic.lean ====
section
/-! DEFINITION. The hyperbolic CORDIC engine (43_hyperbolic_cordic.md): range reduction by ln 2, eighteen
micro-rotations, recomposition; `SINH`, `COSH` and `TANH`. Inside the engine a value has 15 fractional bits in the
wide register (R180). -/

namespace Sys2Proof.Machine

/-! ## The core -/

/-- The integer `n` of the range reduction (R182). -/
def hypN (rom : Rom) (xq : Int) : Int := rsr (xq * rom.invLn2Q15) 30

/-- The residual `r` (R182). -/
def hypR (rom : Rom) (xq : Int) : Int := xq - hypN rom xq * rom.ln2Q15

/-- One hyperbolic micro-rotation; a zero residual counts as non-negative and nothing is saturated (R183). -/
def hypStep (v : Cordic) (e : Nat × Int) : Cordic :=
  if 0 ≤ v.z then ⟨v.x + asr v.y e.1, v.y + asr v.x e.1, v.z - e.2, e.1⟩
  else ⟨v.x - asr v.y e.1, v.y - asr v.x e.1, v.z + e.2, e.1⟩

/-- `hyp_small(r)`: `X` is the cosine side, `Y` the sine side (R183). -/
def hypSmall (rom : Rom) (r : Int) : Cordic := rom.hypSteps.foldl hypStep ⟨rom.kHyp, 0, r, 0⟩

/-- `abs(n) >= N_LIMIT`: the short-circuit is taken (R184). -/
def hypShort (rom : Rom) (xq : Int) : Bool := decide ((hypN rom xq).natAbs ≥ Config.nLimit)

/-- `pow2q15(k)`: 2^k with 15 fractional bits (R185). -/
def pow2q15 (k : Int) : Int := if 0 ≤ k then sat32 (shl 32768 k.toNat) else rsr 32768 (-k).toNat

/-- `(A + B) / 2` (R185). -/
def coshFactor (n : Int) : Int := rsr (sadd32 (pow2q15 n) (pow2q15 (-n))) 1

/-- `(A - B) / 2` (R185). -/
def sinhFactor (n : Int) : Int := rsr (sadd32 (pow2q15 n) (-pow2q15 (-n))) 1

/-- The wide sine side of `sinhcosh_core` (R184, R185, R186). -/
def sinhCore (rom : Rom) (xq : Int) : Int :=
  if hypShort rom xq then (if xq > 0 then 2147483647 else -2147483647)
  else
    let v := hypSmall rom (hypR rom xq)
    let n := hypN rom xq
    sadd32 (qmul15 v.y (coshFactor n)) (qmul15 v.x (sinhFactor n))

/-- The wide cosine side of `sinhcosh_core` (R184, R185, R186). -/
def coshCore (rom : Rom) (xq : Int) : Int :=
  if hypShort rom xq then 2147483647
  else
    let v := hypSmall rom (hypR rom xq)
    let n := hypN rom xq
    sadd32 (qmul15 v.x (coshFactor n)) (qmul15 v.y (sinhFactor n))

/-- The working registers after `sinhcosh_core`: the range reduction always, the loop unless it is skipped (log 4). -/
def sinhcoshRegs (rom : Rom) (xq : Int) (w : Work) : Work :=
  let w' := { w with n := enc32 (hypN rom xq), rr := enc32 (hypR rom xq) }
  if hypShort rom xq then w' else (hypSmall rom (hypR rom xq)).save w'

/-- `tanh_core(xq)` (R187). -/
def tanhCore (rom : Rom) (xq : Int) : Int :=
  if xq > Config.tanhThresh then 32767
  else if xq < -Config.tanhThresh then -32767
  else
    let q := qdiv15 (sinhCore rom xq) (coshCore rom xq)
    if q > 32767 then 32767 else if q < -32767 then -32767 else q

/-- Beyond the threshold nothing is computed (R187, log 4). -/
def tanhRegs (rom : Rom) (xq : Int) (w : Work) : Work :=
  if xq > Config.tanhThresh ∨ xq < -Config.tanhThresh then w else sinhcoshRegs rom xq w

/-! ## The operations -/

/-- `SINH q<fy>, x, q<fx>` (R189). -/
def execSinh (fy : Nat) (x : Int) (fx : Nat) (s : State) : Host.Outcome State Fault Refusal :=
  .next (s.deliver (sinhcoshRegs s.rom (toq15 x fx)) (fromq15 (sinhCore s.rom (toq15 x fx)) fy))

/-- `COSH q<fy>, x, q<fx>` (R190). -/
def execCosh (fy : Nat) (x : Int) (fx : Nat) (s : State) : Host.Outcome State Fault Refusal :=
  .next (s.deliver (sinhcoshRegs s.rom (toq15 x fx)) (fromq15 (coshCore s.rom (toq15 x fx)) fy))

/-- `TANH q<fy>, x, q<fx>` (R191). -/
def execTanh (fy : Nat) (x : Int) (fx : Nat) (s : State) : Host.Outcome State Fault Refusal :=
  .next (s.deliver (tanhRegs s.rom (toq15 x fx)) (fromq15 (tanhCore s.rom (toq15 x fx)) fy))

end Sys2Proof.Machine
end

