-- ==== Sys2Proof/Machine/Primitives.lean ====
section
/-! DEFINITION. The saturation and shift primitives (40_primitives.md part 2). -/

namespace Sys2Proof.Machine

/-- `SAT w` (R100). -/
def execSat (w : Int) (s : State) : Host.Outcome State Fault Refusal :=
  .next (s.deliver id (sat16 w))

/-- `RSHR w, n` (R101). -/
def execRshr (w : Int) (n : Nat) (s : State) : Host.Outcome State Fault Refusal :=
  .next (s.deliverPair (rsr w n))

/-- `SSHIFT w, n` (R102). -/
def execSshift (w : Int) (n : Int) (s : State) : Host.Outcome State Fault Refusal :=
  .next (s.deliverPair (sshift w n))

end Sys2Proof.Machine
end

