-- ==== Sys2Proof/Machine/System.lean ====
section
/-! DEFINITION. Error-indicator access (44_system.md). -/

namespace Sys2Proof.Machine

/-- `CLRERR` (R210): the only accepted operation that writes no latch. -/
def execClrerr (s : State) : Host.Outcome State Fault Refusal :=
  .next (s.clearErr.respond .done)

/-- `RDERR` (R211): `R0 <- zext_2(ERR)`; reading does not clear. -/
def execRderr (s : State) : Host.Outcome State Fault Refusal :=
  .next (s.deliver id s.err.toNat)

end Sys2Proof.Machine
end

