-- ==== Sys2Proof/Machine/Dispatch.lean ====
section
/-! DEFINITION. One arm per operation of the opcode table (30_encoding.md R62). -/

namespace Sys2Proof.Machine

def exec (i : Instr) (s : State) : Host.Outcome State Fault Refusal :=
  match i with
  | .sat w => Sys2Proof.Machine.execSat w s
  | .rshr w n => Sys2Proof.Machine.execRshr w n s
  | .sshift w n => Sys2Proof.Machine.execSshift w n s
  | .sqrt x f => Sys2Proof.Machine.execSqrt x f s
  | .cbrt a f => Sys2Proof.Machine.execCbrt a f s
  | .sincos a => Sys2Proof.Machine.execSincos a s
  | .tan a f => Sys2Proof.Machine.execTan a f s
  | .atan2 y x => Sys2Proof.Machine.execAtan2 y x s
  | .atan y f => Sys2Proof.Machine.execAtan y f s
  | .asin x => Sys2Proof.Machine.execAsin x s
  | .acos x => Sys2Proof.Machine.execAcos x s
  | .sinh fy x fx => Sys2Proof.Machine.execSinh fy x fx s
  | .cosh fy x fx => Sys2Proof.Machine.execCosh fy x fx s
  | .tanh fy x fx => Sys2Proof.Machine.execTanh fy x fx s
  | .clrerr => Sys2Proof.Machine.execClrerr s
  | .rderr => Sys2Proof.Machine.execRderr s

end Sys2Proof.Machine
end

