-- ==== Sys2Proof/Machine/Port.lean ====
section
/-! DEFINITION. The command port (20_memory.md R51 to R54): serving one host event, and presenting a command word. -/

namespace Sys2Proof.Machine

/-- A command word at the port: decode first; an illegal word is answered ILLEGAL and nothing else happens; otherwise
the operation runs (60_exceptions.md R225, R232). -/
def issue (c : CommandWord) (s : State) : Host.Outcome State Fault Refusal :=
  match decode c with
  | .operation i => exec i s
  | .illegal _ => .next (s.respond .illegal)

/-- One host event. A reset during an operation abandons it: no acknowledgement, and the reset state
(70_reset_and_hazards.md R241). -/
def serve (e : HostEvent) (s : State) : Host.Outcome State Fault Refusal :=
  match e with
  | .issue c => issue c s
  | .read l => .next (s.hostRead l)
  | .reset => .next s.applyReset
  | .resetDuring _ => .next s.applyReset

/-- Serve the next host event; with none pending the unit is idle and keeps everything (60_exceptions.md R230, H6). -/
def service (s : State) : Host.Outcome State Fault Refusal :=
  match s.pending with
  | [] => .next s
  | e :: rest => serve e { s with pending := rest }

/-- The host's next event is to issue `c`, before everything it had planned. -/
def State.present (s : State) (c : CommandWord) : State :=
  { s with pending := .issue c :: s.pending }

end Sys2Proof.Machine
end

