-- ==== Sys2Proof/Machine/Step.lean ====
section
/-! DEFINITION. One step of the unit: serve the next host event, each atomically (20_memory.md R53, R54). -/

namespace Sys2Proof.Machine

def step (s : State) : Host.Outcome State Fault Refusal := service s

/-- The word of the opcode table as the host's next command (log 1, log 15). -/
def State.withFetchWord (s : State) (nbits w : Nat) : State := s.present (tableWord nbits w)

end Sys2Proof.Machine
end

