-- ==== Sys2Proof/Safety.lean ====
section
/-! DEFINITION. What counts as a safe run of the unit, in the terms the claims use. -/

namespace Sys2Proof

open Sys2Proof.Machine

/-- What the spec promises of every state the unit reaches: `ERR` only ever holds 0 or 1 (10_state.md R21), and a unit
whose `R1` has been written since reset has had its `R0` written too, because every operation that writes `R1` also
writes `R0` (R23). -/
def Inv (s : State) : Prop :=
  (s.err = errNone ∨ s.err = ErrKind.domain.code) ∧ (s.r1Written = true → s.r0Written = true)

/-- The outcome is a next state: neither a fault nor a refusal. -/
def Completes (o : Host.Outcome State Fault Refusal) : Prop := ∃ t, o = .next t

end Sys2Proof
end

