-- ==== Sys2Proof/Certificates/Slice0/Obligations.lean ====
section
/-! DEFINITION. The statements for the provers, each from the numbered rules of spec/. Results are said in plain
integer arithmetic (nearest quotient, clamp, sequences of register values), not by the model's own functions. -/

namespace Sys2Proof.Claim

open Sys2Proof.Machine

/-! ## Words the statements use -/

/-- `v` is `num / den` rounded to nearest, an exact half away from zero (40_primitives.md R92, R96, R105). -/
def Nearest (num den v : Int) : Prop :=
  2 * |num| - |den| < 2 * |v| * |den| ∧ 2 * |v| * |den| ≤ 2 * |num| + |den| ∧
    (0 ≤ num * den → 0 ≤ v) ∧ (num * den ≤ 0 → v ≤ 0)

def clamp16 (v : Int) : Int := max (-32768) (min 32767 v)

def clamp32 (v : Int) : Int := max (-2147483648) (min 2147483647 v)

/-- The stored 16-bit pattern of an integer (00_scope.md R10). -/
def pat16 (v : Int) : BitVec 16 := BitVec.ofInt 16 v

/-- DONE with one 16-bit result: of what the host can see only `R0` changes; the working registers may change. -/
def OneResult (s t : State) : Prop :=
  t = { s with r0 := t.r0, r0Written := true, work := t.work, answer := some .done }

/-- DONE with both latches written; the working registers may change. -/
def TwoResults (s t : State) : Prop :=
  t = { s with r0 := t.r0, r1 := t.r1, r0Written := true, r1Written := true, work := t.work, answer := some .done }

/-- The operations that write `R1` (10_state.md R23). -/
def WritesR1 : Instr → Prop
  | .sincos _ | .rshr _ _ | .sshift _ _ => True
  | _ => False

/-- The operands for which an operation signals DOMAIN (60_exceptions.md R222). -/
def Signals : Instr → Prop
  | .sqrt x _ => x < 0
  | .tan a _ => a = 16384 ∨ a = -16384
  | _ => False

/-- `CBRT` of a negative operand, the one use of a free value (41_root_solvers.md R124). -/
def Draws : Instr → Prop
  | .cbrt a _ => a < 0
  | _ => False

/-- The rows of 30_encoding.md R63, (match, mask). -/
def rows : List (CommandWord × CommandWord) :=
  [(0x010000000000, 0xFFFF00000000), (0x020000000000, 0xFFE000000000), (0x030000000000, 0xFFC000000000),
   (0x100000000000, 0xFFF0FFFF0000), (0x110000000000, 0xFFF0FFFF0000), (0x200000000000, 0xFFFFFFFF0000),
   (0x210000000000, 0xFF0FFFFF0000), (0x220000000000, 0xFFFF00000000)] ++
  [(0x230000000000, 0xFFF0FFFF0000), (0x240000000000, 0xFFFFFFFF0000), (0x250000000000, 0xFFFFFFFF0000),
   (0x300000000000, 0xFF00FFFF0000), (0x310000000000, 0xFF00FFFF0000), (0x320000000000, 0xFF00FFFF0000),
   (0xF00000000000, 0xFFFFFFFFFFFF), (0xF10000000000, 0xFFFFFFFFFFFF)]

/-! ## The CORDIC loops as register sequences -/

/-- Fourteen rotations toward a zero residual from `(K_CIRC, 0)` (42_circular_cordic.md R142, R143). -/
def RotRun (rom : Rom) (z : Int) (X Y Z : Nat → Int) : Prop :=
  X 0 = rom.kCirc ∧ Y 0 = 0 ∧ Z 0 = z ∧
  ∀ i : Fin 14,
    (0 ≤ Z i → X (i + 1) = clamp16 (X i - Y i / 2 ^ i.val) ∧ Y (i + 1) = clamp16 (Y i + X i / 2 ^ i.val) ∧
      Z (i + 1) = Z i - rom.atanPiQ15.get i) ∧
    (Z i < 0 → X (i + 1) = clamp16 (X i + Y i / 2 ^ i.val) ∧ Y (i + 1) = clamp16 (Y i - X i / 2 ^ i.val) ∧
      Z (i + 1) = Z i + rom.atanPiQ15.get i)

/-- Vectoring from `(x, y)`: a step per index until the residual `Y` is exactly zero, then none (R148). -/
def VecRun (rom : Rom) (y x : Int) (X Y Z : Nat → Int) : Prop :=
  X 0 = x ∧ Y 0 = y ∧ Z 0 = 0 ∧
  ∀ i : Fin 14,
    (Y i = 0 → X (i + 1) = X i ∧ Y (i + 1) = Y i ∧ Z (i + 1) = Z i) ∧
    (0 < Y i → X (i + 1) = X i + Y i / 2 ^ i.val ∧ Y (i + 1) = Y i - X i / 2 ^ i.val ∧
      Z (i + 1) = Z i + rom.atanPiQ15.get i) ∧
    (Y i < 0 → X (i + 1) = X i - Y i / 2 ^ i.val ∧ Y (i + 1) = Y i + X i / 2 ^ i.val ∧
      Z (i + 1) = Z i - rom.atanPiQ15.get i)

/-- The index of the k-th hyperbolic micro-rotation, 4 and 13 twice (43_hyperbolic_cordic.md R183). -/
def hypIndex (k : Nat) : Nat := [1, 2, 3, 4, 4, 5, 6, 7, 8, 9, 10, 11, 12, 13, 13, 14, 15, 16].getD k 0

/-- The angle of the k-th hyperbolic micro-rotation. -/
def hypAngle (rom : Rom) (k : Nat) : Int := rom.atanhQ15.toList.getD (hypIndex k - 1) 0

/-- Eighteen hyperbolic rotations from `(K_HYP, 0)` (R183). -/
def HypRun (rom : Rom) (r : Int) (X Y Z : Nat → Int) : Prop :=
  X 0 = rom.kHyp ∧ Y 0 = 0 ∧ Z 0 = r ∧
  ∀ k : Nat, k < 18 →
    (0 ≤ Z k → X (k + 1) = X k + Y k / 2 ^ hypIndex k ∧ Y (k + 1) = Y k + X k / 2 ^ hypIndex k ∧
      Z (k + 1) = Z k - hypAngle rom k) ∧
    (Z k < 0 → X (k + 1) = X k - Y k / 2 ^ hypIndex k ∧ Y (k + 1) = Y k - X k / 2 ^ hypIndex k ∧
      Z (k + 1) = Z k + hypAngle rom k)

/-- A rounding Q15 product, saturated to 32 bits (40_primitives.md R95). -/
def Product (a b p : Int) : Prop := ∃ m, Nearest (a * b) 32768 m ∧ p = clamp32 m

/-- Recomposition for `|n| < 16`: A = 2^(15+n), B = 2^(15-n) (43_hyperbolic_cordic.md R185). -/
def Recomposed (n cr sr S C : Int) : Prop :=
  ∃ ch sh p₁ p₂ p₃ p₄ : Int,
    Nearest (2 ^ (15 + n).toNat + 2 ^ (15 - n).toNat) 2 ch ∧
    Nearest (2 ^ (15 + n).toNat - 2 ^ (15 - n).toNat) 2 sh ∧
    Product cr ch p₁ ∧ Product sr sh p₂ ∧ Product sr ch p₃ ∧ Product cr sh p₄ ∧
    C = clamp32 (p₁ + p₂) ∧ S = clamp32 (p₃ + p₄)

/-- The wide pair `(S, C)` that `sinhcosh_core` returns for `xq` (R182 to R186). -/
def WideSinhCosh (rom : Rom) (xq S C : Int) : Prop :=
  ∃ n : Int, Nearest (xq * rom.invLn2Q15) (2 ^ 30) n ∧
    (16 ≤ |n| → C = 2147483647 ∧ S = if 0 < xq then 2147483647 else -2147483647) ∧
    (|n| < 16 → ∃ X Y Z : Nat → Int, HypRun rom (xq - n * rom.ln2Q15) X Y Z ∧ Recomposed n (X 18) (Y 18) S C)

/-- `p` is the pattern of a wide Q15 value `v` in format `fy`: rescaled with rounding, then clamped (R188). -/
def Rescaled (v : Int) (fy : Nat) (p : BitVec 16) : Prop :=
  ∃ q, Nearest v (2 ^ (15 - fy)) q ∧ p = pat16 (clamp16 q)

/-! ## Sequences of commands -/

/-- The effect of one command word, by the per-operation rules (20_memory.md R53). -/
def commandEffect (s : State) (c : CommandWord) : State :=
  match decode c with
  | .illegal _ => { s with answer := some .illegal }
  | .operation i =>
    match exec i s with
    | .next t => t
    | _ => s

/-- `ERR` after a command word, from `ERR` before it (60_exceptions.md R223). -/
def errAfter (e : BitVec 2) (c : CommandWord) : BitVec 2 :=
  match decode c with
  | .operation (.sqrt x _) => if x < 0 then 1 else e
  | .operation (.tan a _) => if a = 16384 ∨ a = -16384 then 1 else e
  | .operation .clrerr => 0
  | _ => e

/-- The working registers an operation may use (10_state.md R25, column "used by"); every other one is unchanged. -/
def WorkFrame (w w' : Work) : Instr → Prop
  | .sat _ | .rshr _ _ | .sshift _ _ | .clrerr | .rderr => w' = w
  | .sqrt _ _ => w' = { w with rem := w'.rem, res := w'.res, bit := w'.bit, i := w'.i }
  | .cbrt _ _ => w' = { w with xc := w'.xc, i := w'.i }
  | .sincos _ | .tan _ _ => w' = { w with x := w'.x, y := w'.y, z := w'.z, i := w'.i, flip := w'.flip }
  | .atan2 _ _ | .atan _ _ => w' = { w with x := w'.x, y := w'.y, z := w'.z, i := w'.i, corr := w'.corr }
  | .asin _ | .acos _ =>
    w' = { w with
      x := w'.x, y := w'.y, z := w'.z, i := w'.i, corr := w'.corr, rem := w'.rem, res := w'.res, bit := w'.bit }
  | .sinh _ _ _ | .cosh _ _ _ | .tanh _ _ _ =>
    w' = { w with x := w'.x, y := w'.y, z := w'.z, i := w'.i, n := w'.n, rr := w'.rr }

end Sys2Proof.Claim

open Sys2Proof Sys2Proof.Machine Sys2Proof.Claim

/-! ## Encoding -/

/-- The worked encodings that 30_encoding.md R75 prints, and two illegal words of 95_test_vectors.md 2.1. -/
def Obligations.PrintedWordsDecode : Prop :=
  decode 0x200000001555 = .operation (.sincos 5461) ∧
  decode 0x2200FFFB0005 = .operation (.atan2 5 (-5)) ∧
  decode 0x21C000002000 = .operation (.tan 8192 12) ∧
  decode 0x100800000400 = .operation (.sqrt 1024 8) ∧
  decode 0x308000000001 = .operation (.sinh 8 1 0) ∧
  decode 0x0201FFFFFFFB = .operation (.rshr (-5) 1) ∧
  decode 0x033C00000003 = .operation (.sshift 3 (-4)) ∧
  decode 0x400000000000 = .illegal .reservedOpcode ∧
  decode 0x100000010004 = .illegal .nonzeroField

/-- The decoder is the match and mask table of R63 with the operand values of R61: a word that matches a row decodes to
that row's operation with the values of its fields, and a word that matches none is illegal. -/
def Obligations.DecodeFollowsMatchAndMask : Prop :=
  ∀ c : CommandWord,
    (c &&& 0xFFFF00000000 = 0x010000000000 → decode c = .operation (.sat (c.extractLsb' 0 32).toInt)) ∧
    (c &&& 0xFFE000000000 = 0x020000000000 →
      decode c = .operation (.rshr (c.extractLsb' 0 32).toInt (c.extractLsb' 32 5).toNat)) ∧
    (c &&& 0xFFC000000000 = 0x030000000000 →
      decode c = .operation (.sshift (c.extractLsb' 0 32).toInt (c.extractLsb' 32 6).toInt)) ∧
    (c &&& 0xFFF0FFFF0000 = 0x100000000000 →
      decode c = .operation (.sqrt (c.extractLsb' 0 16).toInt (c.extractLsb' 32 4).toNat)) ∧
    (c &&& 0xFFF0FFFF0000 = 0x110000000000 →
      decode c = .operation (.cbrt (c.extractLsb' 0 16).toInt (c.extractLsb' 32 4).toNat)) ∧
    (c &&& 0xFFFFFFFF0000 = 0x200000000000 → decode c = .operation (.sincos (c.extractLsb' 0 16).toInt)) ∧
    (c &&& 0xFF0FFFFF0000 = 0x210000000000 →
      decode c = .operation (.tan (c.extractLsb' 0 16).toInt (c.extractLsb' 36 4).toNat)) ∧
    (c &&& 0xFFFF00000000 = 0x220000000000 →
      decode c = .operation (.atan2 (c.extractLsb' 0 16).toInt (c.extractLsb' 16 16).toInt)) ∧
    (c &&& 0xFFF0FFFF0000 = 0x230000000000 →
      decode c = .operation (.atan (c.extractLsb' 0 16).toInt (c.extractLsb' 32 4).toNat)) ∧
    (c &&& 0xFFFFFFFF0000 = 0x240000000000 → decode c = .operation (.asin (c.extractLsb' 0 16).toInt)) ∧
    (c &&& 0xFFFFFFFF0000 = 0x250000000000 → decode c = .operation (.acos (c.extractLsb' 0 16).toInt)) ∧
    (c &&& 0xFF00FFFF0000 = 0x300000000000 →
      decode c = .operation (.sinh (c.extractLsb' 36 4).toNat (c.extractLsb' 0 16).toInt (c.extractLsb' 32 4).toNat)) ∧
    (c &&& 0xFF00FFFF0000 = 0x310000000000 →
      decode c = .operation (.cosh (c.extractLsb' 36 4).toNat (c.extractLsb' 0 16).toInt (c.extractLsb' 32 4).toNat)) ∧
    (c &&& 0xFF00FFFF0000 = 0x320000000000 →
      decode c = .operation (.tanh (c.extractLsb' 36 4).toNat (c.extractLsb' 0 16).toInt (c.extractLsb' 32 4).toNat)) ∧
    (c = 0xF00000000000 → decode c = .operation .clrerr) ∧
    (c = 0xF10000000000 → decode c = .operation .rderr) ∧
    ((∀ row ∈ rows, c &&& row.2 ≠ row.1) → ∃ why, decode c = .illegal why)

/-- Decoding what the encoder writes gives the instruction back, for every instruction whose operands fit their
fields (R60, R61). -/
def Obligations.DecodeOfEncode : Prop :=
  ∀ i : Instr, i.wf = true → decode (encode i) = .operation i

/-- Each word that is a command has one meaning and one spelling: its operands fit their fields and encoding them gives
the word back (R62, R72, R73). -/
def Obligations.EncodeOfDecode : Prop :=
  ∀ (c : CommandWord) (i : Instr), decode c = .operation i → i.wf = true ∧ encode i = c

/-! ## The command port -/

/-- A step on an issued command word that decodes runs exactly that operation, a step on one that does not answers
ILLEGAL, and a word placed where the step takes its next command is run as the operation it decodes to. The list of
host events is the model's (log 1). -/
def Obligations.StepRunsDecodedInstruction : Prop :=
  (∀ (s : State) (c : CommandWord) (i : Instr) (rest : List HostEvent),
    s.pending = .issue c :: rest → decode c = .operation i → step s = exec i { s with pending := rest }) ∧
  (∀ (s : State) (c : CommandWord) (why : IllegalReason) (rest : List HostEvent),
    s.pending = .issue c :: rest → decode c = .illegal why →
      step s = .next { s with pending := rest, answer := some .illegal }) ∧
  (∀ (s : State) (w : Nat) (i : Instr), decodeTableWord 48 w = some i → step (s.withFetchWord 48 w) = exec i s)

/-- A word that matches no row is answered ILLEGAL; everything else keeps its value (R72). -/
def Obligations.IllegalWordChangesNothing : Prop :=
  ∀ (s : State) (c : CommandWord), (∀ row ∈ rows, c &&& row.2 ≠ row.1) →
    issue c s = .next { s with answer := some .illegal }

/-- A host read answers the pattern last written, or no value when nothing has been written since reset, and has no
side effect (10_state.md R23, R37, 20_memory.md R58). That it is answered "no value" is the model's form of the spec's
"refused" (log 2). -/
def Obligations.HostReadHasNoSideEffect : Prop :=
  ∀ (s : State) (rest : List HostEvent),
    (s.pending = .read .r0 :: rest →
      step s = .next { s with pending := rest, answer := some (if s.r0Written = true then .data s.r0 else .noValue) }) ∧
    (s.pending = .read .r1 :: rest →
      step s = .next { s with pending := rest, answer := some (if s.r1Written = true then .data s.r1 else .noValue) })

/-- With nothing pending the unit keeps its whole state (60_exceptions.md R230, H6). The idle step is the
model's (log 1). -/
def Obligations.IdleUnitKeepsState : Prop :=
  ∀ s : State, s.pending = [] → step s = .next s

/-- Reset, between commands or during an operation, clears the indicator, leaves both latches without a value, answers
nothing and keeps the ROMs (70_reset_and_hazards.md R240, R241). That reset is an event of the host's list, which it
leaves alone, is the model's (log 1, log 9). -/
def Obligations.ResetEventClears : Prop :=
  ∀ (s : State) (rest : List HostEvent),
    (s.pending = .reset :: rest ∨ ∃ c, s.pending = .resetDuring c :: rest) →
    ∃ t, step s = .next t ∧ t.err = 0 ∧ t.r0Written = false ∧ t.r1Written = false ∧ t.answer = none ∧
      t.rom = s.rom ∧ t.pending = rest

/-! ## Invariants and whole-machine rules -/

/-- The state right after reset meets the invariant, and its ROMs hold the defaults of 10_state.md R30 to R35. -/
def Obligations.ResetMeetsInvariant : Prop :=
  Inv State.reset ∧ State.reset.err = 0 ∧ State.reset.r0Written = false ∧ State.reset.r1Written = false ∧
  State.reset.answer = none ∧ State.reset.pending = [] ∧
  State.reset.rom.atanPiQ15.toList = [8192, 4836, 2555, 1297, 651, 326, 163, 81, 41, 20, 10, 5, 3, 1] ∧
  State.reset.rom.kCirc = 19898 ∧
  State.reset.rom.atanhQ15.toList = [18000, 8369, 4118, 2051, 1024, 512, 256, 128, 64, 32, 16, 8, 4, 2, 1, 1] ∧
  State.reset.rom.kHyp = 39567 ∧ State.reset.rom.ln2Q15 = 22713 ∧ State.reset.rom.invLn2Q15 = 47274

/-- From every state in which `ERR` holds 0 or 1 and a written `R1` goes with a written `R0`, a step leads to such a
state (10_state.md R21, R23). -/
def Obligations.StepKeepsInv : Prop :=
  ∀ s t : State, Inv s → step s = .next t → Inv t

/-- There is no stuck state: every step of every state answers a next state; a command word is acknowledged exactly
once, DONE if it is an operation and ILLEGAL if it is not (20_memory.md R51, 70_reset_and_hazards.md R251). The list
of host events and the idle step are the model's (log 1). -/
def Obligations.EveryStepCompletes : Prop :=
  ∀ s : State, ∃ t, step s = .next t ∧
    ∀ (c : CommandWord) (rest : List HostEvent), s.pending = .issue c :: rest →
      t.pending = rest ∧
      ((∃ i, decode c = .operation i) → t.answer = some .done) ∧
      ((∃ why, decode c = .illegal why) → t.answer = some .illegal)

/-- No step writes the constant ROMs (10_state.md R20). -/
def Obligations.RomNeverWritten : Prop :=
  ∀ s t : State, step s = .next t → t.rom = s.rom

/-- Which latches an operation writes (10_state.md R23, 44_system.md R210), and that it leaves the ROMs alone. That the
counter of free values moves by one for `CBRT` of a negative operand and not otherwise is the model's choice (log 6), as
is the host's list of events, which no operation touches (log 1). -/
def Obligations.LatchFrame : Prop :=
  ∀ (i : Instr) (s t : State), exec i s = .next t →
    (WritesR1 i → t.r1Written = true) ∧
    (¬ WritesR1 i → t.r1 = s.r1 ∧ t.r1Written = s.r1Written) ∧
    (i ≠ .clrerr → t.r0Written = true) ∧
    (i = .clrerr → t.r0 = s.r0 ∧ t.r0Written = s.r0Written) ∧
    (Draws i → t.draws = s.draws + 1) ∧ (¬ Draws i → t.draws = s.draws) ∧
    t.rom = s.rom ∧ t.pending = s.pending ∧ t.answer = some .done

/-- An operation leaves every working register alone that 10_state.md R25 does not list it under; `I` counts as listed
for every iterative operation. -/
def Obligations.WorkingRegisterFrame : Prop :=
  ∀ (i : Instr) (s t : State), exec i s = .next t → WorkFrame s.work t.work i

/-- The table of 60_exceptions.md R222 is complete: `ERR` becomes DOMAIN for exactly the operands it lists, with the
sentinel it lists in `R0`, becomes NONE by `CLRERR`, and otherwise keeps its value. -/
def Obligations.OnlyListedOperandsSignal : Prop :=
  ∀ (i : Instr) (s t : State), exec i s = .next t →
    (Signals i → t.err = 1) ∧
    (i = .clrerr → t.err = 0) ∧
    (¬ Signals i → i ≠ .clrerr → t.err = s.err) ∧
    (∀ x f, i = .sqrt x f → x < 0 → t.r0 = 0) ∧
    (∀ f, i = .tan 16384 f → t.r0 = pat16 32767) ∧
    (∀ f, i = .tan (-16384) f → t.r0 = pat16 (-32767))

/-- A result depends only on the command and the constants, never on `ERR`, the latches or the working registers
(00_scope.md R15, 70_reset_and_hazards.md R247); `RDERR` reads `ERR` and is not spoken of. The free value of a negative
`CBRT` is the same because the two states have used equally many (log 6). -/
def Obligations.ResultIndependentOfHistory : Prop :=
  ∀ (i : Instr) (s u t v : State), s.rom = u.rom → s.draws = u.draws →
    exec i s = .next t → exec i u = .next v → i ≠ .rderr →
    (i ≠ .clrerr → t.r0 = v.r0) ∧ (WritesR1 i → t.r1 = v.r1) ∧ (Signals i → t.err = v.err)

/-- The state after a sequence of command words is the fold of the per-operation rules over that sequence
(20_memory.md R53). That a program is a list of host events is the model's (log 1). -/
def Obligations.RunIsFoldOfCommands : Prop :=
  ∀ (ws : List CommandWord) (s : State) (rest : List HostEvent),
    s.pending = ws.map .issue ++ rest →
    ∃ t, core.run ws.length s = .next t ∧ t.pending = rest ∧
      { t with pending := [] } = ws.foldl commandEffect { s with pending := [] }

/-- After any sequence of command words `ERR` is the kind of the most recent signal since the last `CLRERR`, or what it
was before (60_exceptions.md R223). The commands stand in the model's list of host events (log 1). -/
def Obligations.IndicatorIsSticky : Prop :=
  ∀ (ws : List CommandWord) (s : State) (rest : List HostEvent),
    s.pending = ws.map .issue ++ rest →
    ∃ t, core.run ws.length s = .next t ∧ t.err = ws.foldl errAfter s.err

/-- `CLRERR`, then a command, then `RDERR`: `R0` reads 1 exactly if that command signalled, and 0 otherwise
(70_reset_and_hazards.md R245). The commands stand in the model's list of host events (log 1). -/
def Obligations.ClearRunReadAttributes : Prop :=
  ∀ (c : CommandWord) (i : Instr) (s : State) (rest : List HostEvent),
    decode c = .operation i →
    s.pending = .issue 0xF00000000000 :: .issue c :: .issue 0xF10000000000 :: rest →
    ∃ t, core.run 3 s = .next t ∧ (Signals i → t.r0 = 1) ∧ (¬ Signals i → t.r0 = 0)

/-- A value in `R1` survives any number of commands that do not write `R1` (70_reset_and_hazards.md R246). The
commands stand in the model's list of host events (log 1). -/
def Obligations.UpperLatchSurvives : Prop :=
  ∀ (ws : List CommandWord) (s : State) (rest : List HostEvent),
    s.pending = ws.map .issue ++ rest →
    (∀ c ∈ ws, ∀ i, decode c = .operation i → ¬ WritesR1 i) →
    ∃ t, core.run ws.length s = .next t ∧ t.r1 = s.r1 ∧ t.r1Written = s.r1Written

/-! ## The saturation and shift primitives -/

/-- `SAT` (40_primitives.md R100): `R0` is the operand clamped to 16 bits; nothing else changes. -/
def Obligations.SatClamps : Prop :=
  ∀ (w : Int) (s : State),
    exec (.sat w) s = .next { s with r0 := pat16 (clamp16 w), r0Written := true, answer := some .done }

/-- `RSHR` (R101): the two latches together hold the nearest integer to `w / 2^n`, a half away from zero, which fits 32
bits; nothing else changes. -/
def Obligations.RshrRoundsToNearest : Prop :=
  ∀ (w : Int) (n : Nat) (s : State), (Instr.rshr w n).wf = true →
    ∃ (t : State) (v : Int), exec (.rshr w n) s = .next t ∧ Nearest w (2 ^ n) v ∧
      (t.r1 ++ t.r0).toInt = v ∧ TwoResults s t ∧ t.work = s.work

/-- `SSHIFT` (R102): a positive amount does what `RSHR` does, zero returns the operand, a negative amount shifts the
32-bit pattern left and loses what leaves it; nothing else changes. -/
def Obligations.SshiftBothDirections : Prop :=
  ∀ (w n : Int) (s : State), (Instr.sshift w n).wf = true →
    (0 < n → exec (.sshift w n) s = exec (.rshr w n.toNat) s) ∧
    ∃ t : State, exec (.sshift w n) s = .next t ∧ TwoResults s t ∧ t.work = s.work ∧
      (n = 0 → (t.r1 ++ t.r0).toInt = w) ∧
      (n < 0 → t.r1 ++ t.r0 = BitVec.ofInt 32 w <<< (-n).toNat)

/-! ## The root solvers -/

/-- `SQRT` (41_root_solvers.md R122): a negative operand signals DOMAIN and delivers 0; otherwise `R0` is the exact
floor root of `x * 2^f` and `ERR` keeps its value. -/
def Obligations.SqrtIsFloorRoot : Prop :=
  ∀ (x : Int) (f : Nat) (s : State), (Instr.sqrt x f).wf = true →
    ∃ t : State, exec (.sqrt x f) s = .next t ∧
      (x < 0 → t.r0 = 0 ∧ OneResult { s with err := 1 } t) ∧
      (0 ≤ x → OneResult s t ∧ ∃ r : Nat, t.r0.toInt = r ∧
        (r * r : Int) ≤ x * 2 ^ f ∧ x * 2 ^ f < (r + 1) * (r + 1))

/-- `CBRT` (R123, R124): for a positive operand seventeen rounded Newton steps from 1.0, every iterate at least 1, and
the last clamped; 0 for 0; for a negative operand the operation completes with `ERR` and `R1` unchanged and nothing is
said of `R0` (the model's counter of free values may move, log 6). -/
def Obligations.CbrtIsSeventeenNewtonSteps : Prop :=
  ∀ (a : Int) (f : Nat) (s : State), (Instr.cbrt a f).wf = true →
    ∃ t : State, exec (.cbrt a f) s = .next t ∧
      (a < 0 → OneResult { s with draws := t.draws } t) ∧
      (0 ≤ a → OneResult s t) ∧
      (a = 0 → t.r0 = 0) ∧
      (0 < a → ∃ X : Nat → Int, X 0 = 2 ^ f ∧
        (∀ k < 17, 1 ≤ X k ∧ ∃ q, Nearest (a * 2 ^ (2 * f)) (X k * X k) q ∧ Nearest (2 * X k + q) 3 (X (k + 1))) ∧
        t.r0 = pat16 (clamp16 (X 17)))

/-! ## The circular engine -/

/-- `SINCOS` (42_circular_cordic.md R141 to R146): mirror, fourteen rotations, cosine sign; sine in `R0`, cosine in
`R1`, nothing else of what the host can see changes. For every contents of the ROMs. -/
def Obligations.SincosIsFourteenRotations : Prop :=
  ∀ (a : Int) (s : State), (Instr.sincos a).wf = true →
    ∃ (t : State) (X Y Z : Nat → Int), exec (.sincos a) s = .next t ∧
      RotRun s.rom (if 16384 < a then 32768 - a else if a < -16384 then -32768 - a else a) X Y Z ∧
      t.r0 = pat16 (Y 14) ∧
      t.r1 = pat16 (if 16384 < a ∨ a < -16384 then clamp16 (-(X 14)) else X 14) ∧
      TwoResults s t

/-- An angle beyond +pi/2 or -pi/2 has the sine of its mirror image and the negated, clamped cosine (R141, R144). -/
def Obligations.SincosMirrorIdentity : Prop :=
  ∀ (a m : Int) (s : State), (Instr.sincos a).wf = true →
    (16384 < a ∧ m = 32768 - a) ∨ (a < -16384 ∧ m = -32768 - a) →
    ∃ t u : State, exec (.sincos a) s = .next t ∧ exec (.sincos m) s = .next u ∧
      t.r0 = u.r0 ∧ t.r1 = pat16 (clamp16 (-u.r1.toInt))

/-- `TAN` (R147): exactly +pi/2 and -pi/2 signal DOMAIN with the extremes +32767 and -32767; every other angle delivers
the rounded quotient of the sine and cosine that `SINCOS` gives, rescaled to format `f` and clamped, or the extreme with
the sine's sign if the cosine is 0, without a signal. -/
def Obligations.TanIsRoundedQuotient : Prop :=
  ∀ (a : Int) (f : Nat) (s : State), (Instr.tan a f).wf = true →
    ∃ t u : State, exec (.tan a f) s = .next t ∧ exec (.sincos a) s = .next u ∧
      (a = 16384 → t.r0 = pat16 32767 ∧ OneResult { s with err := 1 } t) ∧
      (a = -16384 → t.r0 = pat16 (-32767) ∧ OneResult { s with err := 1 } t) ∧
      (a ≠ 16384 → a ≠ -16384 → OneResult s t ∧
        (u.r1.toInt = 0 → t.r0 = pat16 (if 0 ≤ u.r0.toInt then 32767 else -32767)) ∧
        (u.r1.toInt ≠ 0 → ∃ q, Nearest (u.r0.toInt * 32768) u.r1.toInt q ∧ Rescaled q f t.r0))

/-- `ATAN2` (R148, R149): the axis cases are exact; off the axes the vector is reflected into the right half-plane,
driven to the x-axis, and the accumulated angle corrected by the original signs and clamped. -/
def Obligations.Atan2IsVectoring : Prop :=
  ∀ (y x : Int) (s : State), (Instr.atan2 y x).wf = true →
    ∃ t : State, exec (.atan2 y x) s = .next t ∧ OneResult s t ∧
      (y = 0 → 0 ≤ x → t.r0 = 0) ∧
      (y = 0 → x < 0 → t.r0 = pat16 32767) ∧
      (0 < y → x = 0 → t.r0 = pat16 16384) ∧
      (y < 0 → x = 0 → t.r0 = pat16 (-16384)) ∧
      (y ≠ 0 → 0 < x → ∃ X Y Z : Nat → Int, VecRun s.rom y x X Y Z ∧ t.r0 = pat16 (clamp16 (Z 14))) ∧
      (y ≠ 0 → x < 0 → ∃ X Y Z : Nat → Int, VecRun s.rom (-y) (-x) X Y Z ∧
        t.r0 = pat16 (clamp16 (Z 14 + if 0 < y then 32768 else -32768)))

/-- `ATAN` (R150): the operand with 15 fractional bits and the reference 32768 are halved together, the operand with
rounding, until both fit 16 bits, which takes 1 to 15 halvings, and the result is what `ATAN2` delivers for the pair. -/
def Obligations.AtanIsAtan2OfScaledPair : Prop :=
  ∀ (y : Int) (f : Nat) (s : State), (Instr.atan y f).wf = true →
    ∃ (t u : State) (k : Nat) (H : Nat → Int), 1 ≤ k ∧ k ≤ 15 ∧
      H 0 = y * 2 ^ (15 - f) ∧ (∀ j < k, Nearest (H j) 2 (H (j + 1))) ∧
      (∀ j < k, 1 ≤ j → H j < -32768 ∨ 32767 < H j) ∧ -32768 ≤ H k ∧ H k ≤ 32767 ∧
      exec (.atan y f) s = .next t ∧ exec (.atan2 (H k) (2 ^ (15 - k))) s = .next u ∧
      t.r0 = u.r0 ∧ OneResult s t

/-- `ASIN` (R151, R152): with `c` the floor root of `1 - x^2`, clamped to [0, 32767], the result is what `ATAN2 x, c`
delivers; `ERR` never changes. -/
def Obligations.AsinIsAtan2OfRoot : Prop :=
  ∀ (x : Int) (s : State), (Instr.asin x).wf = true →
    ∃ (t u : State) (x2 : Int) (c : Nat), Nearest (x * x) 32768 x2 ∧
      (c * c : Int) ≤ max 0 (min 32767 (32768 - x2)) * 32768 ∧
      max 0 (min 32767 (32768 - x2)) * 32768 < (c + 1 : Int) * (c + 1) ∧
      exec (.asin x) s = .next t ∧ exec (.atan2 x c) s = .next u ∧ t.r0 = u.r0 ∧ OneResult s t

/-- `ACOS` (R151, R153): with the same `c`, the result is what `ATAN2 c, x` delivers; `ERR` never changes. -/
def Obligations.AcosIsAtan2OfRoot : Prop :=
  ∀ (x : Int) (s : State), (Instr.acos x).wf = true →
    ∃ (t u : State) (x2 : Int) (c : Nat), Nearest (x * x) 32768 x2 ∧
      (c * c : Int) ≤ max 0 (min 32767 (32768 - x2)) * 32768 ∧
      max 0 (min 32767 (32768 - x2)) * 32768 < (c + 1 : Int) * (c + 1) ∧
      exec (.acos x) s = .next t ∧ exec (.atan2 c x) s = .next u ∧ t.r0 = u.r0 ∧ OneResult s t

/-! ## The hyperbolic engine -/

/-- `SINH` (43_hyperbolic_cordic.md R181 to R186, R188, R189): the wide sine side in format `fy`. -/
def Obligations.SinhDeliversWideSine : Prop :=
  ∀ (fy : Nat) (x : Int) (fx : Nat) (s : State), (Instr.sinh fy x fx).wf = true →
    ∃ (t : State) (S C : Int), exec (.sinh fy x fx) s = .next t ∧
      WideSinhCosh s.rom (x * 2 ^ (15 - fx)) S C ∧ Rescaled S fy t.r0 ∧ OneResult s t

/-- `COSH` (R190): the wide cosine side in format `fy`. -/
def Obligations.CoshDeliversWideCosine : Prop :=
  ∀ (fy : Nat) (x : Int) (fx : Nat) (s : State), (Instr.cosh fy x fx).wf = true →
    ∃ (t : State) (S C : Int), exec (.cosh fy x fx) s = .next t ∧
      WideSinhCosh s.rom (x * 2 ^ (15 - fx)) S C ∧ Rescaled C fy t.r0 ∧ OneResult s t

/-- `TANH` (R187, R191): beyond ±12.0 the extremes ±32767, otherwise the rounded quotient of the two sides clamped to
±32767, in format `fy`. A zero cosine side, which the default constants never give, is not spoken of (log 8). -/
def Obligations.TanhIsClampedQuotient : Prop :=
  ∀ (fy : Nat) (x : Int) (fx : Nat) (s : State), (Instr.tanh fy x fx).wf = true →
    ∃ t : State, exec (.tanh fy x fx) s = .next t ∧ OneResult s t ∧
      (393216 < x * 2 ^ (15 - fx) → Rescaled 32767 fy t.r0) ∧
      (x * 2 ^ (15 - fx) < -393216 → Rescaled (-32767) fy t.r0) ∧
      (-393216 ≤ x * 2 ^ (15 - fx) → x * 2 ^ (15 - fx) ≤ 393216 →
        ∃ S C : Int, WideSinhCosh s.rom (x * 2 ^ (15 - fx)) S C ∧
          (C ≠ 0 → ∃ q, Nearest (S * 32768) C q ∧ Rescaled (max (-32767) (min 32767 q)) fy t.r0))

/-- `TANH` never delivers a value outside -32767..32767, whatever the ROMs hold (R187, R192). -/
def Obligations.TanhStaysInOpenInterval : Prop :=
  ∀ (fy : Nat) (x : Int) (fx : Nat) (s t : State), (Instr.tanh fy x fx).wf = true →
    exec (.tanh fy x fx) s = .next t → -32767 ≤ t.r0.toInt ∧ t.r0.toInt ≤ 32767

/-- With the default constants and an argument of magnitude at least 352054 (10.7438) the short-circuit is taken: `COSH`
delivers 32767, `SINH` the extreme of its sign, and `TANH` ±32767 in format `fy`, whatever the formats (the spec's
derived sentence in 43_hyperbolic_cordic.md R182, and R184). -/
def Obligations.LargeArgumentsSaturate : Prop :=
  ∀ (fy : Nat) (x : Int) (fx : Nat) (s : State), (Instr.sinh fy x fx).wf = true → s.rom = Rom.default →
    352054 ≤ |x * 2 ^ (15 - fx)| →
    ∃ t u v : State, exec (.cosh fy x fx) s = .next t ∧ exec (.sinh fy x fx) s = .next u ∧
      exec (.tanh fy x fx) s = .next v ∧ t.r0 = pat16 32767 ∧
      u.r0 = pat16 (if 0 < x then 32767 else -32768) ∧
      Rescaled (if 0 < x then 32767 else -32767) fy v.r0

/-- With the default constants the short-circuit is taken exactly from magnitude 352054 on, and below it the residual of
the range reduction is at most 11358 in magnitude (the spec's derived sentence in R182). -/
def Obligations.RangeReductionResidual : Prop :=
  ∀ xq : Int, (hypShort Rom.default xq = true ↔ 352054 ≤ |xq|) ∧
    (hypShort Rom.default xq = false → |hypR Rom.default xq| ≤ 11358)

/-! ## The error indicator -/

/-- `CLRERR` (44_system.md R210): `ERR` is NONE, nothing else changes. -/
def Obligations.ClrerrClearsOnlyErr : Prop :=
  ∀ s : State, exec .clrerr s = .next { s with err := 0, answer := some .done }

/-- `RDERR` (R211): `R0` is `ERR` zero-extended; `ERR` and everything else keep their values. -/
def Obligations.RderrCopiesErr : Prop :=
  ∀ s : State,
    exec .rderr s = .next { s with r0 := s.err.setWidth 16, r0Written := true, answer := some .done }
end

