-- ==== Sys2Proof/Laws/Arith.lean ====
section
/-! SUPPORT. One spec lemma per integer function of Machine/Operands.lean: saturation, rounding shift, rounding
division. Later proofs cite these and do not unfold the functions. -/

namespace Sys2Proof.Machine

/-! ## Saturation (40_primitives.md R90, R91) -/

theorem sat16_bounds (v : Int) : -32768 ≤ sat16 v ∧ sat16 v ≤ 32767 := by
  unfold sat16; split
  · omega
  · split <;> omega

theorem sat16_eq_self {v : Int} (h₁ : -32768 ≤ v) (h₂ : v ≤ 32767) : sat16 v = v := by
  unfold sat16; split
  · omega
  · split <;> omega

theorem sat16_eq_clamp (v : Int) : sat16 v = max (-32768) (min 32767 v) := by
  unfold sat16; split
  · omega
  · split <;> omega

theorem sat32_eq_clamp (v : Int) : sat32 v = max (-2147483648) (min 2147483647 v) := by
  unfold sat32; split
  · omega
  · split <;> omega

theorem sat32_eq_self {v : Int} (h₁ : -2147483648 ≤ v) (h₂ : v ≤ 2147483647) : sat32 v = v := by
  rw [sat32_eq_clamp]; omega

/-! ## Stored patterns (00_scope.md R10) -/

theorem enc16_toInt {v : Int} (h₁ : -32768 ≤ v) (h₂ : v ≤ 32767) : (enc16 v).toInt = v := by
  rw [enc16, BitVec.toInt_ofInt]; exact Int.bmod_eq_of_le (by omega) (by omega)

theorem enc16_sat16_toInt (v : Int) : (enc16 (sat16 v)).toInt = sat16 v :=
  enc16_toInt (sat16_bounds v).1 (sat16_bounds v).2

/-! ## Rounding (R92, R96) -/

/-- Division of natural numbers rounded to nearest, a half up: the magnitude part of `rsr` and `rdiv`. -/
theorem nearest_nat_div (a b : Int) (hb : 0 < b) :
    2 * a - b < 2 * ((2 * a + b) / (2 * b)) * b ∧ 2 * ((2 * a + b) / (2 * b)) * b ≤ 2 * a + b := by
  have h₁ := Int.mul_ediv_self_le (x := 2 * a + b) (k := 2 * b) (by omega)
  have h₂ := Int.lt_mul_ediv_self_add (x := 2 * a + b) (k := 2 * b) (by omega)
  constructor <;> nlinarith

theorem asr_half (v : Int) (n : Nat) (hn : n ≠ 0) :
    asr (v + 2 ^ (n - 1)) n = (2 * v + 2 ^ n) / (2 * 2 ^ n) := by
  obtain ⟨m, rfl⟩ := Nat.exists_eq_succ_of_ne_zero hn
  have h : (2 * v + 2 ^ (m + 1) : Int) = 2 * (v + 2 ^ m) := by ring
  rw [asr, Nat.succ_eq_add_one, Nat.add_sub_cancel, h, Int.mul_ediv_mul_of_pos _ _ (by omega)]

/-- Everything `rsr` does: the magnitude is the nearest to `|v| / 2^n`, a half away from zero, and the sign is kept. -/
theorem rsr_nearest (v : Int) (n : Nat) :
    2 * |v| - 2 ^ n < 2 * |rsr v n| * 2 ^ n ∧ 2 * |rsr v n| * 2 ^ n ≤ 2 * |v| + 2 ^ n ∧
      (0 ≤ v → 0 ≤ rsr v n) ∧ (v ≤ 0 → rsr v n ≤ 0) := by
  have hp : (0 : Int) < 2 ^ n := by positivity
  unfold rsr
  split
  · next h => subst h; simp only [pow_zero]; omega
  · next h =>
    split
    · next hv =>
      rw [asr_half v n h]
      have hq : 0 ≤ (2 * v + 2 ^ n) / (2 * 2 ^ n : Int) := Int.ediv_nonneg (by omega) (by omega)
      rw [abs_of_nonneg hv, abs_of_nonneg hq]
      refine ⟨(nearest_nat_div v _ hp).1, (nearest_nat_div v _ hp).2, fun _ => hq, fun h0 => ?_⟩
      obtain rfl : v = 0 := by omega
      exact le_of_eq (Int.ediv_eq_zero_of_lt (by omega) (by omega))
    · next hv =>
      rw [asr_half (-v) n h]
      have hq : 0 ≤ (2 * -v + 2 ^ n) / (2 * 2 ^ n : Int) := Int.ediv_nonneg (by omega) (by omega)
      rw [abs_neg, abs_of_nonneg hq, abs_of_neg (by omega : v < 0)]
      exact ⟨(nearest_nat_div (-v) _ hp).1, (nearest_nat_div (-v) _ hp).2, fun h0 => absurd h0 hv, fun _ => by omega⟩

/-- Everything `rdiv` does for a non-zero divisor. -/
theorem rdiv_nearest (num den : Int) (hd : den ≠ 0) :
    2 * |num| - |den| < 2 * |rdiv num den| * |den| ∧ 2 * |rdiv num den| * |den| ≤ 2 * |num| + |den| ∧
      (0 ≤ num * den → 0 ≤ rdiv num den) ∧ (num * den ≤ 0 → rdiv num den ≤ 0) := by
  have hp : 0 < |den| := abs_pos.mpr hd
  have hn : 0 ≤ |num| := abs_nonneg num
  have hq : 0 ≤ (2 * |num| + |den|) / (2 * |den|) := Int.ediv_nonneg (by omega) (by omega)
  have key := nearest_nat_div |num| |den| hp
  simp only [rdiv, hd, if_false, Int.natCast_natAbs]
  split
  · next h =>
    rw [abs_of_nonneg hq]
    refine ⟨key.1, key.2, fun _ => hq, fun hm => ?_⟩
    obtain rfl : num = 0 := by
      rcases h with h | ⟨h₁, h₂⟩ | ⟨h₁, h₂⟩
      · exact h
      · nlinarith
      · nlinarith
    exact le_of_eq (Int.ediv_eq_zero_of_lt (by simp) (by simp [hd]))
  · next h =>
    rw [abs_neg, abs_of_nonneg hq]
    refine ⟨key.1, key.2, fun hm => absurd ?_ h, fun _ => by omega⟩
    rcases lt_trichotomy num 0 with h₁ | h₁ | h₁
    · exact .inr (.inr ⟨h₁, by rcases lt_or_gt_of_ne hd with h₂ | h₂ <;> [exact h₂; nlinarith]⟩)
    · exact .inl h₁
    · exact .inr (.inl ⟨h₁, by rcases lt_or_gt_of_ne hd with h₂ | h₂ <;> [nlinarith; exact h₂]⟩)

end Sys2Proof.Machine
end

