-- ==== Sys2Proof/Laws/Decode.lean ====
section
/-! SUPPORT. The fields of the words the encoder builds, through their numeric values, and the numeric value of any
field: what a proof about decode and encode cites. -/

namespace Sys2Proof

theorem append_toNat {m n : Nat} (x : BitVec m) (y : BitVec n) : (x ++ y).toNat = x.toNat * 2 ^ n + y.toNat := by
  rw [BitVec.toNat_append, ← Nat.shiftLeft_add_eq_or_of_lt y.isLt, Nat.shiftLeft_eq]

theorem extract_toNat {m : Nat} (c : BitVec m) (s n : Nat) :
    (c.extractLsb' s n).toNat = c.toNat / 2 ^ s % 2 ^ n := by
  rw [BitVec.extractLsb'_toNat, Nat.shiftRight_eq_div_pow]

section Fields

variable (o : BitVec 8) (fy fx : BitVec 4) (b a : BitVec 16) (hi : BitVec 8) (w : BitVec 32)

theorem mkWord_toNat : (mkWord o fy fx b a).toNat = o.toNat * 1099511627776 + fy.toNat * 68719476736 +
    fx.toNat * 4294967296 + b.toNat * 65536 + a.toNat := by
  unfold mkWord; simp only [append_toNat]; omega

theorem mkWide_toNat : (mkWide o hi w).toNat =
    o.toNat * 1099511627776 + hi.toNat * 4294967296 + w.toNat := by
  unfold mkWide; simp only [append_toNat]; omega

@[simp] theorem opcBits_mkWord : opcBits (mkWord o fy fx b a) = o := by
  apply BitVec.eq_of_toNat_eq
  rw [opcBits, extract_toNat, mkWord_toNat]
  have := o.isLt; have := fy.isLt; have := fx.isLt; have := b.isLt; have := a.isLt
  omega

@[simp] theorem fyBits_mkWord : fyBits (mkWord o fy fx b a) = fy := by
  apply BitVec.eq_of_toNat_eq
  rw [fyBits, extract_toNat, mkWord_toNat]
  have := o.isLt; have := fy.isLt; have := fx.isLt; have := b.isLt; have := a.isLt
  omega

@[simp] theorem fxBits_mkWord : fxBits (mkWord o fy fx b a) = fx := by
  apply BitVec.eq_of_toNat_eq
  rw [fxBits, extract_toNat, mkWord_toNat]
  have := o.isLt; have := fy.isLt; have := fx.isLt; have := b.isLt; have := a.isLt
  omega

@[simp] theorem bBits_mkWord : bBits (mkWord o fy fx b a) = b := by
  apply BitVec.eq_of_toNat_eq
  rw [bBits, extract_toNat, mkWord_toNat]
  have := o.isLt; have := fy.isLt; have := fx.isLt; have := b.isLt; have := a.isLt
  omega

@[simp] theorem aBits_mkWord : aBits (mkWord o fy fx b a) = a := by
  apply BitVec.eq_of_toNat_eq
  rw [aBits, extract_toNat, mkWord_toNat]
  have := o.isLt; have := fy.isLt; have := fx.isLt; have := b.isLt; have := a.isLt
  omega

@[simp] theorem opcBits_mkWide : opcBits (mkWide o hi w) = o := by
  apply BitVec.eq_of_toNat_eq
  rw [opcBits, extract_toNat, mkWide_toNat]
  have := o.isLt; have := hi.isLt; have := w.isLt
  omega

@[simp] theorem wBits_mkWide : wBits (mkWide o hi w) = w := by
  apply BitVec.eq_of_toNat_eq
  rw [wBits, extract_toNat, mkWide_toNat]
  have := o.isLt; have := hi.isLt; have := w.isLt
  omega

/-- Any field inside bits 39..32 of a shift primitive's word. -/
theorem hiBits_mkWide (p n : Nat) (h : p + n ≤ 8) :
    (mkWide o hi w).extractLsb' (32 + p) n = hi.extractLsb' p n := by
  apply BitVec.eq_of_toNat_eq
  rw [extract_toNat, extract_toNat, mkWide_toNat]
  have hw := w.isLt
  have e : (o.toNat * 1099511627776 + hi.toNat * 4294967296 + w.toNat) / 2 ^ (32 + p) =
      (o.toNat * 2 ^ 8 + hi.toNat) / 2 ^ p := by
    rw [pow_add, ← Nat.div_div_eq_div_mul]; congr 1; omega
  have h8 : 2 ^ 8 = 2 ^ p * 2 ^ (8 - p) := by rw [← pow_add]; congr 1; omega
  have hn : 2 ^ (8 - p) = 2 ^ n * 2 ^ (8 - p - n) := by rw [← pow_add]; congr 1; omega
  rw [e, h8, show o.toNat * (2 ^ p * 2 ^ (8 - p)) = o.toNat * 2 ^ (8 - p) * 2 ^ p by ring,
    Nat.add_comm, Nat.add_mul_div_right _ _ (by positivity), hn,
    show o.toNat * (2 ^ n * 2 ^ (8 - p - n)) = o.toNat * 2 ^ (8 - p - n) * 2 ^ n by ring, Nat.add_mul_mod_self_right]

end Fields

/-- A command word is its five fields (30_encoding.md R60). -/
theorem mkWord_fields (c : CommandWord) : mkWord (opcBits c) (fyBits c) (fxBits c) (bBits c) (aBits c) = c := by
  apply BitVec.eq_of_toNat_eq
  rw [mkWord_toNat, opcBits, fyBits, fxBits, bBits, aBits]
  simp only [extract_toNat]
  have := c.isLt
  omega

/-- A command word is its opcode, its bits 39..32 and the wide operand (R60). -/
theorem mkWide_fields (c : CommandWord) : mkWide (opcBits c) (c.extractLsb' 32 8) (wBits c) = c := by
  apply BitVec.eq_of_toNat_eq
  rw [mkWide_toNat, opcBits, wBits]
  simp only [extract_toNat]
  have := c.isLt
  omega

theorem append_and {m n : Nat} (x x' : BitVec m) (y y' : BitVec n) :
    (x ++ y) &&& (x' ++ y') = (x &&& x') ++ (y &&& y') := by
  ext i h; simp only [BitVec.getElem_and, BitVec.getElem_append]; split <;> simp

/-- Masking a word masks each field: what a match and mask test of 30_encoding.md R63 says about the fields. -/
theorem mkWord_and (o o' : BitVec 8) (fy fy' fx fx' : BitVec 4) (b b' a a' : BitVec 16) :
    mkWord o fy fx b a &&& mkWord o' fy' fx' b' a' =
      mkWord (o &&& o') (fy &&& fy') (fx &&& fx') (b &&& b') (a &&& a') := by
  refine (append_and _ _ _ _).trans (congrArg (· ++ (a &&& a')) ?_)
  refine (append_and _ _ _ _).trans (congrArg (· ++ (b &&& b')) ?_)
  exact (append_and _ _ _ _).trans (congrArg (· ++ (fx &&& fx')) (append_and _ _ _ _))

theorem mkWide_and (o o' hi hi' : BitVec 8) (w w' : BitVec 32) :
    mkWide o hi w &&& mkWide o' hi' w' = mkWide (o &&& o') (hi &&& hi') (w &&& w') := by
  exact (append_and _ _ _ _).trans (congrArg (· ++ (w &&& w')) (append_and _ _ _ _))

/-- A field the mask covers whole has the value the match gives it (R63). -/
theorem field_of_masked (s n : Nat) {c mask mtch : CommandWord} (h : c &&& mask = mtch)
    (hm : mask.extractLsb' s n = BitVec.allOnes n) : c.extractLsb' s n = mtch.extractLsb' s n := by
  rw [← h, BitVec.extractLsb'_and, hm, BitVec.and_allOnes]

end Sys2Proof
end

