-- ==== Sys2Proof/Laws/Loops.lean ====
section
/-! SUPPORT. The CORDIC loops as sequences: what stands in the registers before each micro-rotation, and the entries of
the step lists. A proof about a loop cites these and does not unfold a fold. -/

namespace Sys2Proof.Machine

/-- The registers after the first `k` elements of a list of steps. -/
theorem foldl_take_succ {α β : Type} (f : β → α → β) (l : List α) (b : β) (k : Nat) (h : k < l.length) :
    (l.take (k + 1)).foldl f b = f ((l.take k).foldl f b) l[k] := by
  rw [List.take_succ_eq_append_getElem h, List.foldl_append]; rfl

theorem foldl_take_length {α β : Type} (f : β → α → β) (l : List α) (b : β) :
    (l.take l.length).foldl f b = l.foldl f b := by rw [List.take_length]

@[simp] theorem circSteps_length (rom : Rom) : rom.circSteps.length = 14 := rfl

@[simp] theorem hypSteps_length (rom : Rom) : rom.hypSteps.length = 18 := rfl

/-- The k-th circular micro-rotation has index `k` and the k-th table entry (42_circular_cordic.md R140). -/
theorem circSteps_get (rom : Rom) (k : Nat) (h : k < rom.circSteps.length) :
    rom.circSteps[k] = (k, rom.atanPiQ15[k]'(by simpa using h)) := by
  have hk : k < 14 := by simpa using h
  simp [Rom.circSteps, Rom.atan, Config.nCirc, hk]; rfl

/-- The k-th hyperbolic micro-rotation has the k-th index of `HYP_SEQ` and that index's table entry
(43_hyperbolic_cordic.md R183). -/
theorem hypSteps_get (rom : Rom) (k : Nat) (h : k < rom.hypSteps.length) :
    rom.hypSteps[k] = (Config.hypSeq[k]'(by simpa [Rom.hypSteps] using h),
      rom.atanh (Config.hypSeq[k]'(by simpa [Rom.hypSteps] using h))) := by
  simp [Rom.hypSteps]

/-- The vectoring step with the early exit of R148 as a step that does nothing on a zero residual. -/
def vecStutter (v : Cordic) (e : Nat × Int) : Cordic := if v.y = 0 then v else vecStep v e

/-- The vectoring loop with its early exit is the fold of the stuttering step. -/
theorem vecLoop_eq_foldl (l : List (Nat × Int)) (v : Cordic) : vecLoop l v = l.foldl vecStutter v := by
  induction l generalizing v with
  | nil => rfl
  | cons e es ih =>
    rw [vecLoop, List.foldl_cons, vecStutter]
    split
    · next h =>
      clear ih
      induction es with
      | nil => rfl
      | cons d ds ihd => rw [List.foldl_cons, vecStutter, if_pos h]; exact ihd
    · exact ih _

end Sys2Proof.Machine
end

