-- ==== Sys2Proof/Laws/PerInstr.lean ====
section
/-! SUPPORT. The per-instruction family `Opcode`: the encoder puts the operation code of 30_encoding.md R62 in bits
47..40 of the word. -/

namespace Sys2Proof.Laws.Opcode

/-- The column `OPC` of R62. -/
def code : Instr → BitVec 8
  | .sat _ => 0x01#8
  | .rshr _ _ => 0x02#8
  | .sshift _ _ => 0x03#8
  | .sqrt _ _ => 0x10#8
  | .cbrt _ _ => 0x11#8
  | .sincos _ => 0x20#8
  | .tan _ _ => 0x21#8
  | .atan2 _ _ => 0x22#8
  | .atan _ _ => 0x23#8
  | .asin _ => 0x24#8
  | .acos _ => 0x25#8
  | .sinh _ _ _ => 0x30#8
  | .cosh _ _ _ => 0x31#8
  | .tanh _ _ _ => 0x32#8
  | .clrerr => 0xF0#8
  | .rderr => 0xF1#8

def Statement (i : Instr) : Prop := opcBits (encode i) = code i

theorem sat (w : Int) : Statement (.sat w) := opcBits_mkWide _ _ _
theorem rshr (w : Int) (n : Nat) : Statement (.rshr w n) := opcBits_mkWide _ _ _
theorem sshift (w : Int) (n : Int) : Statement (.sshift w n) := opcBits_mkWide _ _ _
theorem sqrt (x : Int) (f : Nat) : Statement (.sqrt x f) := opcBits_mkWord _ _ _ _ _
theorem cbrt (a : Int) (f : Nat) : Statement (.cbrt a f) := opcBits_mkWord _ _ _ _ _
theorem sincos (a : Int) : Statement (.sincos a) := opcBits_mkWord _ _ _ _ _
theorem tan (a : Int) (f : Nat) : Statement (.tan a f) := opcBits_mkWord _ _ _ _ _
theorem atan2 (y x : Int) : Statement (.atan2 y x) := opcBits_mkWord _ _ _ _ _
theorem atan (y : Int) (f : Nat) : Statement (.atan y f) := opcBits_mkWord _ _ _ _ _
theorem asin (x : Int) : Statement (.asin x) := opcBits_mkWord _ _ _ _ _
theorem acos (x : Int) : Statement (.acos x) := opcBits_mkWord _ _ _ _ _
theorem sinh (fy : Nat) (x : Int) (fx : Nat) : Statement (.sinh fy x fx) := opcBits_mkWord _ _ _ _ _
theorem cosh (fy : Nat) (x : Int) (fx : Nat) : Statement (.cosh fy x fx) := opcBits_mkWord _ _ _ _ _
theorem tanh (fy : Nat) (x : Int) (fx : Nat) : Statement (.tanh fy x fx) := opcBits_mkWord _ _ _ _ _
theorem clrerr : Statement .clrerr := opcBits_mkWord _ _ _ _ _
theorem rderr : Statement .rderr := opcBits_mkWord _ _ _ _ _

end Sys2Proof.Laws.Opcode
end

