-- ==== Sys2Proof/Laws/State.lean ====
section
/-! SUPPORT. One lemma per field per update of the state, so that no later proof unfolds an update. -/

namespace Sys2Proof.Machine

/-! ### `State.setR0` -/

@[simp] theorem State.setR0_err (s : State) (v : Int) :
    (s.setR0 v).err = s.err := rfl
@[simp] theorem State.setR0_r0 (s : State) (v : Int) :
    (s.setR0 v).r0 = enc16 v := rfl
@[simp] theorem State.setR0_r1 (s : State) (v : Int) :
    (s.setR0 v).r1 = s.r1 := rfl
@[simp] theorem State.setR0_work (s : State) (v : Int) :
    (s.setR0 v).work = s.work := rfl
@[simp] theorem State.setR0_rom (s : State) (v : Int) :
    (s.setR0 v).rom = s.rom := rfl
@[simp] theorem State.setR0_r0Written (s : State) (v : Int) :
    (s.setR0 v).r0Written = true := rfl
@[simp] theorem State.setR0_r1Written (s : State) (v : Int) :
    (s.setR0 v).r1Written = s.r1Written := rfl
@[simp] theorem State.setR0_answer (s : State) (v : Int) :
    (s.setR0 v).answer = s.answer := rfl
@[simp] theorem State.setR0_pending (s : State) (v : Int) :
    (s.setR0 v).pending = s.pending := rfl
@[simp] theorem State.setR0_draws (s : State) (v : Int) :
    (s.setR0 v).draws = s.draws := rfl

/-! ### `State.setR1` -/

@[simp] theorem State.setR1_err (s : State) (v : Int) :
    (s.setR1 v).err = s.err := rfl
@[simp] theorem State.setR1_r0 (s : State) (v : Int) :
    (s.setR1 v).r0 = s.r0 := rfl
@[simp] theorem State.setR1_r1 (s : State) (v : Int) :
    (s.setR1 v).r1 = enc16 v := rfl
@[simp] theorem State.setR1_work (s : State) (v : Int) :
    (s.setR1 v).work = s.work := rfl
@[simp] theorem State.setR1_rom (s : State) (v : Int) :
    (s.setR1 v).rom = s.rom := rfl
@[simp] theorem State.setR1_r0Written (s : State) (v : Int) :
    (s.setR1 v).r0Written = s.r0Written := rfl
@[simp] theorem State.setR1_r1Written (s : State) (v : Int) :
    (s.setR1 v).r1Written = true := rfl
@[simp] theorem State.setR1_answer (s : State) (v : Int) :
    (s.setR1 v).answer = s.answer := rfl
@[simp] theorem State.setR1_pending (s : State) (v : Int) :
    (s.setR1 v).pending = s.pending := rfl
@[simp] theorem State.setR1_draws (s : State) (v : Int) :
    (s.setR1 v).draws = s.draws := rfl

/-! ### `State.setPair` -/

@[simp] theorem State.setPair_err (s : State) (v : Int) :
    (s.setPair v).err = s.err := rfl
@[simp] theorem State.setPair_r0 (s : State) (v : Int) :
    (s.setPair v).r0 = (enc32 v).extractLsb' 0 16 := rfl
@[simp] theorem State.setPair_r1 (s : State) (v : Int) :
    (s.setPair v).r1 = (enc32 v).extractLsb' 16 16 := rfl
@[simp] theorem State.setPair_work (s : State) (v : Int) :
    (s.setPair v).work = s.work := rfl
@[simp] theorem State.setPair_rom (s : State) (v : Int) :
    (s.setPair v).rom = s.rom := rfl
@[simp] theorem State.setPair_r0Written (s : State) (v : Int) :
    (s.setPair v).r0Written = true := rfl
@[simp] theorem State.setPair_r1Written (s : State) (v : Int) :
    (s.setPair v).r1Written = true := rfl
@[simp] theorem State.setPair_answer (s : State) (v : Int) :
    (s.setPair v).answer = s.answer := rfl
@[simp] theorem State.setPair_pending (s : State) (v : Int) :
    (s.setPair v).pending = s.pending := rfl
@[simp] theorem State.setPair_draws (s : State) (v : Int) :
    (s.setPair v).draws = s.draws := rfl

/-! ### `State.mapWork` -/

@[simp] theorem State.mapWork_err (s : State) (f : Work → Work) :
    (s.mapWork f).err = s.err := rfl
@[simp] theorem State.mapWork_r0 (s : State) (f : Work → Work) :
    (s.mapWork f).r0 = s.r0 := rfl
@[simp] theorem State.mapWork_r1 (s : State) (f : Work → Work) :
    (s.mapWork f).r1 = s.r1 := rfl
@[simp] theorem State.mapWork_work (s : State) (f : Work → Work) :
    (s.mapWork f).work = f s.work := rfl
@[simp] theorem State.mapWork_rom (s : State) (f : Work → Work) :
    (s.mapWork f).rom = s.rom := rfl
@[simp] theorem State.mapWork_r0Written (s : State) (f : Work → Work) :
    (s.mapWork f).r0Written = s.r0Written := rfl
@[simp] theorem State.mapWork_r1Written (s : State) (f : Work → Work) :
    (s.mapWork f).r1Written = s.r1Written := rfl
@[simp] theorem State.mapWork_answer (s : State) (f : Work → Work) :
    (s.mapWork f).answer = s.answer := rfl
@[simp] theorem State.mapWork_pending (s : State) (f : Work → Work) :
    (s.mapWork f).pending = s.pending := rfl
@[simp] theorem State.mapWork_draws (s : State) (f : Work → Work) :
    (s.mapWork f).draws = s.draws := rfl

/-! ### `State.respond` -/

@[simp] theorem State.respond_err (s : State) (a : Answer) :
    (s.respond a).err = s.err := rfl
@[simp] theorem State.respond_r0 (s : State) (a : Answer) :
    (s.respond a).r0 = s.r0 := rfl
@[simp] theorem State.respond_r1 (s : State) (a : Answer) :
    (s.respond a).r1 = s.r1 := rfl
@[simp] theorem State.respond_work (s : State) (a : Answer) :
    (s.respond a).work = s.work := rfl
@[simp] theorem State.respond_rom (s : State) (a : Answer) :
    (s.respond a).rom = s.rom := rfl
@[simp] theorem State.respond_r0Written (s : State) (a : Answer) :
    (s.respond a).r0Written = s.r0Written := rfl
@[simp] theorem State.respond_r1Written (s : State) (a : Answer) :
    (s.respond a).r1Written = s.r1Written := rfl
@[simp] theorem State.respond_answer (s : State) (a : Answer) :
    (s.respond a).answer = some a := rfl
@[simp] theorem State.respond_pending (s : State) (a : Answer) :
    (s.respond a).pending = s.pending := rfl
@[simp] theorem State.respond_draws (s : State) (a : Answer) :
    (s.respond a).draws = s.draws := rfl

/-! ### `State.signal` -/

@[simp] theorem State.signal_err (s : State) (k : ErrKind) :
    (s.signal k).err = k.code := rfl
@[simp] theorem State.signal_r0 (s : State) (k : ErrKind) :
    (s.signal k).r0 = s.r0 := rfl
@[simp] theorem State.signal_r1 (s : State) (k : ErrKind) :
    (s.signal k).r1 = s.r1 := rfl
@[simp] theorem State.signal_work (s : State) (k : ErrKind) :
    (s.signal k).work = s.work := rfl
@[simp] theorem State.signal_rom (s : State) (k : ErrKind) :
    (s.signal k).rom = s.rom := rfl
@[simp] theorem State.signal_r0Written (s : State) (k : ErrKind) :
    (s.signal k).r0Written = s.r0Written := rfl
@[simp] theorem State.signal_r1Written (s : State) (k : ErrKind) :
    (s.signal k).r1Written = s.r1Written := rfl
@[simp] theorem State.signal_answer (s : State) (k : ErrKind) :
    (s.signal k).answer = s.answer := rfl
@[simp] theorem State.signal_pending (s : State) (k : ErrKind) :
    (s.signal k).pending = s.pending := rfl
@[simp] theorem State.signal_draws (s : State) (k : ErrKind) :
    (s.signal k).draws = s.draws := rfl

/-! ### `State.signalDomainIf` -/

@[simp] theorem State.signalDomainIf_err (s : State) (b : Bool) :
    (s.signalDomainIf b).err = if b then ErrKind.domain.code else s.err := by cases b <;> rfl
@[simp] theorem State.signalDomainIf_r0 (s : State) (b : Bool) :
    (s.signalDomainIf b).r0 = s.r0 := by cases b <;> rfl
@[simp] theorem State.signalDomainIf_r1 (s : State) (b : Bool) :
    (s.signalDomainIf b).r1 = s.r1 := by cases b <;> rfl
@[simp] theorem State.signalDomainIf_work (s : State) (b : Bool) :
    (s.signalDomainIf b).work = s.work := by cases b <;> rfl
@[simp] theorem State.signalDomainIf_rom (s : State) (b : Bool) :
    (s.signalDomainIf b).rom = s.rom := by cases b <;> rfl
@[simp] theorem State.signalDomainIf_r0Written (s : State) (b : Bool) :
    (s.signalDomainIf b).r0Written = s.r0Written := by cases b <;> rfl
@[simp] theorem State.signalDomainIf_r1Written (s : State) (b : Bool) :
    (s.signalDomainIf b).r1Written = s.r1Written := by cases b <;> rfl
@[simp] theorem State.signalDomainIf_answer (s : State) (b : Bool) :
    (s.signalDomainIf b).answer = s.answer := by cases b <;> rfl
@[simp] theorem State.signalDomainIf_pending (s : State) (b : Bool) :
    (s.signalDomainIf b).pending = s.pending := by cases b <;> rfl
@[simp] theorem State.signalDomainIf_draws (s : State) (b : Bool) :
    (s.signalDomainIf b).draws = s.draws := by cases b <;> rfl

/-! ### `State.clearErr` -/

@[simp] theorem State.clearErr_err (s : State) :
    (s.clearErr).err = errNone := rfl
@[simp] theorem State.clearErr_r0 (s : State) :
    (s.clearErr).r0 = s.r0 := rfl
@[simp] theorem State.clearErr_r1 (s : State) :
    (s.clearErr).r1 = s.r1 := rfl
@[simp] theorem State.clearErr_work (s : State) :
    (s.clearErr).work = s.work := rfl
@[simp] theorem State.clearErr_rom (s : State) :
    (s.clearErr).rom = s.rom := rfl
@[simp] theorem State.clearErr_r0Written (s : State) :
    (s.clearErr).r0Written = s.r0Written := rfl
@[simp] theorem State.clearErr_r1Written (s : State) :
    (s.clearErr).r1Written = s.r1Written := rfl
@[simp] theorem State.clearErr_answer (s : State) :
    (s.clearErr).answer = s.answer := rfl
@[simp] theorem State.clearErr_pending (s : State) :
    (s.clearErr).pending = s.pending := rfl
@[simp] theorem State.clearErr_draws (s : State) :
    (s.clearErr).draws = s.draws := rfl

/-! ### `State.deliver` -/

@[simp] theorem State.deliver_err (s : State) (f : Work → Work) (v : Int) :
    (s.deliver f v).err = s.err := rfl
@[simp] theorem State.deliver_r0 (s : State) (f : Work → Work) (v : Int) :
    (s.deliver f v).r0 = enc16 v := rfl
@[simp] theorem State.deliver_r1 (s : State) (f : Work → Work) (v : Int) :
    (s.deliver f v).r1 = s.r1 := rfl
@[simp] theorem State.deliver_work (s : State) (f : Work → Work) (v : Int) :
    (s.deliver f v).work = f s.work := rfl
@[simp] theorem State.deliver_rom (s : State) (f : Work → Work) (v : Int) :
    (s.deliver f v).rom = s.rom := rfl
@[simp] theorem State.deliver_r0Written (s : State) (f : Work → Work) (v : Int) :
    (s.deliver f v).r0Written = true := rfl
@[simp] theorem State.deliver_r1Written (s : State) (f : Work → Work) (v : Int) :
    (s.deliver f v).r1Written = s.r1Written := rfl
@[simp] theorem State.deliver_answer (s : State) (f : Work → Work) (v : Int) :
    (s.deliver f v).answer = some .done := rfl
@[simp] theorem State.deliver_pending (s : State) (f : Work → Work) (v : Int) :
    (s.deliver f v).pending = s.pending := rfl
@[simp] theorem State.deliver_draws (s : State) (f : Work → Work) (v : Int) :
    (s.deliver f v).draws = s.draws := rfl

/-! ### `State.deliverPair` -/

@[simp] theorem State.deliverPair_err (s : State) (v : Int) :
    (s.deliverPair v).err = s.err := rfl
@[simp] theorem State.deliverPair_r0 (s : State) (v : Int) :
    (s.deliverPair v).r0 = (enc32 v).extractLsb' 0 16 := rfl
@[simp] theorem State.deliverPair_r1 (s : State) (v : Int) :
    (s.deliverPair v).r1 = (enc32 v).extractLsb' 16 16 := rfl
@[simp] theorem State.deliverPair_work (s : State) (v : Int) :
    (s.deliverPair v).work = s.work := rfl
@[simp] theorem State.deliverPair_rom (s : State) (v : Int) :
    (s.deliverPair v).rom = s.rom := rfl
@[simp] theorem State.deliverPair_r0Written (s : State) (v : Int) :
    (s.deliverPair v).r0Written = true := rfl
@[simp] theorem State.deliverPair_r1Written (s : State) (v : Int) :
    (s.deliverPair v).r1Written = true := rfl
@[simp] theorem State.deliverPair_answer (s : State) (v : Int) :
    (s.deliverPair v).answer = some .done := rfl
@[simp] theorem State.deliverPair_pending (s : State) (v : Int) :
    (s.deliverPair v).pending = s.pending := rfl
@[simp] theorem State.deliverPair_draws (s : State) (v : Int) :
    (s.deliverPair v).draws = s.draws := rfl

/-! ### `State.draw` -/

@[simp] theorem State.draw_err (s : State) :
    (s.draw).err = s.err := rfl
@[simp] theorem State.draw_r0 (s : State) :
    (s.draw).r0 = s.r0 := rfl
@[simp] theorem State.draw_r1 (s : State) :
    (s.draw).r1 = s.r1 := rfl
@[simp] theorem State.draw_work (s : State) :
    (s.draw).work = s.work := rfl
@[simp] theorem State.draw_rom (s : State) :
    (s.draw).rom = s.rom := rfl
@[simp] theorem State.draw_r0Written (s : State) :
    (s.draw).r0Written = s.r0Written := rfl
@[simp] theorem State.draw_r1Written (s : State) :
    (s.draw).r1Written = s.r1Written := rfl
@[simp] theorem State.draw_answer (s : State) :
    (s.draw).answer = s.answer := rfl
@[simp] theorem State.draw_pending (s : State) :
    (s.draw).pending = s.pending := rfl
@[simp] theorem State.draw_draws (s : State) :
    (s.draw).draws = s.draws + 1 := rfl

/-! ### `State.hostRead` -/

@[simp] theorem State.hostRead_err (s : State) (l : Latch) :
    (s.hostRead l).err = s.err := rfl
@[simp] theorem State.hostRead_r0 (s : State) (l : Latch) :
    (s.hostRead l).r0 = s.r0 := rfl
@[simp] theorem State.hostRead_r1 (s : State) (l : Latch) :
    (s.hostRead l).r1 = s.r1 := rfl
@[simp] theorem State.hostRead_work (s : State) (l : Latch) :
    (s.hostRead l).work = s.work := rfl
@[simp] theorem State.hostRead_rom (s : State) (l : Latch) :
    (s.hostRead l).rom = s.rom := rfl
@[simp] theorem State.hostRead_r0Written (s : State) (l : Latch) :
    (s.hostRead l).r0Written = s.r0Written := rfl
@[simp] theorem State.hostRead_r1Written (s : State) (l : Latch) :
    (s.hostRead l).r1Written = s.r1Written := rfl
@[simp] theorem State.hostRead_answer (s : State) (l : Latch) :
    (s.hostRead l).answer = some (if s.latchWritten l then .data (s.latch l) else .noValue) := rfl
@[simp] theorem State.hostRead_pending (s : State) (l : Latch) :
    (s.hostRead l).pending = s.pending := rfl
@[simp] theorem State.hostRead_draws (s : State) (l : Latch) :
    (s.hostRead l).draws = s.draws := rfl

/-! ### `State.applyReset` -/

@[simp] theorem State.applyReset_err (s : State) :
    (s.applyReset).err = 0 := rfl
@[simp] theorem State.applyReset_r0 (s : State) :
    (s.applyReset).r0 = 0 := rfl
@[simp] theorem State.applyReset_r1 (s : State) :
    (s.applyReset).r1 = 0 := rfl
@[simp] theorem State.applyReset_work (s : State) :
    (s.applyReset).work = Work.reset := rfl
@[simp] theorem State.applyReset_rom (s : State) :
    (s.applyReset).rom = s.rom := rfl
@[simp] theorem State.applyReset_r0Written (s : State) :
    (s.applyReset).r0Written = false := rfl
@[simp] theorem State.applyReset_r1Written (s : State) :
    (s.applyReset).r1Written = false := rfl
@[simp] theorem State.applyReset_answer (s : State) :
    (s.applyReset).answer = none := rfl
@[simp] theorem State.applyReset_pending (s : State) :
    (s.applyReset).pending = s.pending := rfl
@[simp] theorem State.applyReset_draws (s : State) :
    (s.applyReset).draws = s.draws := rfl

/-! ### `State.present` -/

@[simp] theorem State.present_err (s : State) (c : CommandWord) :
    (s.present c).err = s.err := rfl
@[simp] theorem State.present_r0 (s : State) (c : CommandWord) :
    (s.present c).r0 = s.r0 := rfl
@[simp] theorem State.present_r1 (s : State) (c : CommandWord) :
    (s.present c).r1 = s.r1 := rfl
@[simp] theorem State.present_work (s : State) (c : CommandWord) :
    (s.present c).work = s.work := rfl
@[simp] theorem State.present_rom (s : State) (c : CommandWord) :
    (s.present c).rom = s.rom := rfl
@[simp] theorem State.present_r0Written (s : State) (c : CommandWord) :
    (s.present c).r0Written = s.r0Written := rfl
@[simp] theorem State.present_r1Written (s : State) (c : CommandWord) :
    (s.present c).r1Written = s.r1Written := rfl
@[simp] theorem State.present_answer (s : State) (c : CommandWord) :
    (s.present c).answer = s.answer := rfl
@[simp] theorem State.present_pending (s : State) (c : CommandWord) :
    (s.present c).pending = .issue c :: s.pending := rfl
@[simp] theorem State.present_draws (s : State) (c : CommandWord) :
    (s.present c).draws = s.draws := rfl

end Sys2Proof.Machine
end

