-- ==== Sys2Proof/Laws/Port.lean ====
section
/-! SUPPORT. What one step of the unit can do, said once (20_memory.md R51 to R54, 70_reset_and_hazards.md R240, R241):
the provers cite these and do not unfold `step`. -/

namespace Sys2Proof.Machine

theorem step_pending_nil {s : State} (h : s.pending = []) : step s = .next s := by
  simp [step, service, h]

theorem step_pending_cons {s : State} {e : HostEvent} {rest : List HostEvent} (h : s.pending = e :: rest) :
    step s = serve e { s with pending := rest } := by
  simp [step, service, h]

theorem serve_issue_operation {c : CommandWord} {i : Instr} (s : State) (h : decode c = .operation i) :
    serve (.issue c) s = exec i s := by
  simp [serve, issue, h]

theorem serve_issue_illegal {c : CommandWord} {why : IllegalReason} (s : State) (h : decode c = .illegal why) :
    serve (.issue c) s = .next (s.respond .illegal) := by
  simp [serve, issue, h]

/-- Everything a step that answers a next state can have done. -/
theorem step_cases {s t : State} (h : step s = .next t) :
    (s.pending = [] ∧ t = s) ∨
    ∃ e rest, s.pending = e :: rest ∧
      ((∃ c i, e = .issue c ∧ decode c = .operation i ∧ exec i { s with pending := rest } = .next t) ∨
       (∃ c why, e = .issue c ∧ decode c = .illegal why ∧ t = State.respond { s with pending := rest } .illegal) ∨
       (∃ l, e = .read l ∧ t = State.hostRead { s with pending := rest } l) ∨
       ((e = .reset ∨ ∃ c, e = .resetDuring c) ∧ t = State.applyReset { s with pending := rest })) := by
  cases hp : s.pending with
  | nil => rw [step_pending_nil hp] at h; exact .inl ⟨rfl, by injection h with h; exact h.symm⟩
  | cons e rest =>
    rw [step_pending_cons hp] at h
    refine .inr ⟨e, rest, rfl, ?_⟩
    cases e with
    | issue c =>
      cases hd : decode c with
      | operation i => rw [serve_issue_operation _ hd] at h; exact .inl ⟨c, i, rfl, hd, h⟩
      | illegal why =>
        rw [serve_issue_illegal _ hd] at h
        injection h with h
        exact .inr (.inl ⟨c, why, rfl, hd, h.symm⟩)
    | read l => injection h with h; exact .inr (.inr (.inl ⟨l, rfl, h.symm⟩))
    | reset => injection h with h; exact .inr (.inr (.inr ⟨.inl rfl, h.symm⟩))
    | resetDuring c => injection h with h; exact .inr (.inr (.inr ⟨.inr ⟨c, rfl⟩, h.symm⟩))

end Sys2Proof.Machine
end

