-- ==== Sys2Proof/Laws/Roots.lean ====
section
/-! SUPPORT. What the loops of Machine/Roots.lean compute: the restoring root is the exact floor root
(41_root_solvers.md R120), and the Newton iterate stays positive, so no divisor is zero (R123). -/

namespace Sys2Proof.Machine

/-! ## The restoring root -/

theorem four_pow_eq (k : Nat) : 4 ^ k = 2 ^ k * 2 ^ k := by
  rw [← Nat.mul_pow]

/-- The loop invariant, run to its end: `BIT` = 4^k, `RES` = P * 2^(k+1), `REM` = v - P^2. -/
theorem rootLoop_floor (v : Nat) : ∀ (k fuel i P : Nat) (r : Root), k < fuel → r.bit = 4 ^ k →
    r.res = P * 2 ^ (k + 1) → r.rem + P * P = v → v < (P + 2 ^ (k + 1)) * (P + 2 ^ (k + 1)) →
    (rootLoop fuel i r).res * (rootLoop fuel i r).res ≤ v ∧
      v < ((rootLoop fuel i r).res + 1) * ((rootLoop fuel i r).res + 1) := by
  intro k
  induction k with
  | zero =>
    intro fuel i P r hf hb hr hm hv
    obtain ⟨fuel, rfl⟩ : ∃ m, fuel = m + 1 := ⟨fuel - 1, by omega⟩
    have hend : ∀ (m j : Nat) (q : Root), q.bit = 0 → rootLoop m j q = q := by
      intro m j q hq; cases m <;> simp [rootLoop, hq]
    simp only [pow_zero, zero_add, pow_one] at hb hr hv
    rw [rootLoop, if_neg (by omega)]
    split
    · rw [hend _ _ _ (by simp [hb])]
      have e : r.res / 2 + r.bit = P + 1 := by omega
      simp only [e]
      constructor <;> nlinarith
    · rw [hend _ _ _ (by simp [hb])]
      have e : r.res / 2 = P := by omega
      simp only [e]
      constructor <;> nlinarith
  | succ k ih =>
    intro fuel i P r hf hb hr hm hv
    obtain ⟨fuel, rfl⟩ : ∃ m, fuel = m + 1 := ⟨fuel - 1, by omega⟩
    have hpos : 0 < 2 ^ (k + 1) := by positivity
    have hb' : r.bit = 2 ^ (k + 1) * 2 ^ (k + 1) := by rw [hb, four_pow_eq]
    have hbit : r.bit / 4 = 4 ^ k := by rw [hb, pow_succ]; omega
    have hres : r.res / 2 = P * 2 ^ (k + 1) := by
      rw [hr, show P * 2 ^ (k + 1 + 1) = 2 * (P * 2 ^ (k + 1)) by ring]; omega
    have hr2 : r.res = 2 * (P * 2 ^ (k + 1)) := by rw [hr]; ring
    rw [rootLoop, if_neg (by rw [hb]; positivity)]
    split
    · next h =>
      refine ih fuel (i + 1) (P + 2 ^ (k + 1)) _ (by omega) hbit ?_ ?_ ?_
      · rw [hres, hb']; ring
      · rw [hr2, hb'] at *
        generalize 2 ^ (k + 1) = t at *
        have e : (P + t) * (P + t) = P * P + (2 * (P * t) + t * t) := by ring
        change r.rem - (2 * (P * t) + t * t) + (P + t) * (P + t) = v
        omega
      · rw [show P + 2 ^ (k + 1) + 2 ^ (k + 1) = P + 2 ^ (k + 1 + 1) by ring]; exact hv
    · next h =>
      refine ih fuel (i + 1) P _ (by omega) hbit hres hm ?_
      rw [hr2, hb'] at h
      generalize 2 ^ (k + 1) = t at *
      nlinarith

/-- The start search finds the highest power of four not above `v`. -/
theorem rootStart_spec (v : Nat) (hv : 1 ≤ v) : ∀ (k fuel : Nat), k < fuel → v < 4 * 4 ^ k →
    ∃ j, j ≤ k ∧ rootStart v fuel (4 ^ k) = 4 ^ j ∧ v < 4 * 4 ^ j := by
  intro k
  induction k with
  | zero =>
    intro fuel hf h
    obtain ⟨fuel, rfl⟩ : ∃ m, fuel = m + 1 := ⟨fuel - 1, by omega⟩
    exact ⟨0, le_refl _, by simp only [rootStart, pow_zero]; rw [if_neg (by omega)], h⟩
  | succ k ih =>
    intro fuel hf h
    obtain ⟨fuel, rfl⟩ : ∃ m, fuel = m + 1 := ⟨fuel - 1, by omega⟩
    have h4 : 4 ^ (k + 1) = 4 * 4 ^ k := by ring
    by_cases hc : 4 ^ (k + 1) > v
    · obtain ⟨j, hj, he, hl⟩ := ih fuel (by omega) (by omega)
      refine ⟨j, by omega, ?_, hl⟩
      rw [rootStart, if_pos hc, ← he]; congr 1; omega
    · exact ⟨k + 1, le_refl _, by rw [rootStart, if_neg hc], h⟩

/-- `isqrt` is the exact integer square root (R120). -/
theorem isqrt_floor (v : Nat) (h₁ : 1 ≤ v) (h₂ : v < 4294967296) :
    isqrt v * isqrt v ≤ v ∧ v < (isqrt v + 1) * (isqrt v + 1) := by
  obtain ⟨j, hj, he, hl⟩ := rootStart_spec v h₁ 15 16 (by omega) (by omega)
  rw [show 4 ^ 15 = 1073741824 from rfl] at he
  have h4 := four_pow_eq j
  refine rootLoop_floor v j 16 0 0 _ (by omega) he (by simp) (by simp) ?_
  rw [zero_add, show 2 ^ (j + 1) * 2 ^ (j + 1) = 4 * (2 ^ j * 2 ^ j) by ring, ← h4]
  exact hl

/-! ## The Newton cube root -/

/-- A Newton step from a positive iterate gives a positive iterate. -/
theorem cbrtStep_pos {a x : Int} (f : Nat) (ha : 0 ≤ a) (hx : 1 ≤ x) : 1 ≤ cbrtStep a f x := by
  have hq := (rdiv_nearest (shl a (2 * f)) (x * x) (by nlinarith)).2.2.1
    (mul_nonneg (mul_nonneg ha (by positivity)) (by nlinarith))
  have h := rdiv_nearest (2 * x + rdiv (shl a (2 * f)) (x * x)) 3 (by norm_num)
  have hr : 0 ≤ cbrtStep a f x := h.2.2.1 (by omega)
  have h1 := h.1
  rw [← cbrtStep, abs_of_nonneg hr, abs_of_nonneg (by omega), abs_of_pos (by norm_num : (0 : Int) < 3)] at h1
  omega

theorem cbrtIterate_succ (a : Int) (f k : Nat) (x : Int) :
    cbrtIterate a f (k + 1) x = cbrtStep a f (cbrtIterate a f k x) := by
  induction k generalizing x with
  | zero => rfl
  | succ k ih => exact ih (cbrtStep a f x)

theorem cbrtIterate_pos {a x : Int} (f k : Nat) (ha : 0 ≤ a) (hx : 1 ≤ x) : 1 ≤ cbrtIterate a f k x := by
  induction k with
  | zero => exact hx
  | succ k ih => rw [cbrtIterate_succ]; exact cbrtStep_pos f ha ih

end Sys2Proof.Machine
end

