-- ==== Sys2Proof/Tests/Slice0.lean ====
section
/-! SUPPORT. The model's own tests. Words are written out from 30_encoding.md R60 to R63; results are those of
95_test_vectors.md, or hand calculation where a comment says so. At the end, a named witness for every statement
that has hypotheses. -/

namespace Sys2Proof.Tests

open Sys2Proof.Machine Sys2Proof.Claim

/-! ## WellFormed: an ill-formed term for each check -/

theorem test_wf_sat : (Instr.sat 2147483648).wf = false := by decide
theorem test_wf_sat_low : (Instr.sat (-2147483649)).wf = false := by decide
theorem test_wf_rshr_amount : (Instr.rshr 0 32).wf = false := by decide
theorem test_wf_rshr_wide : (Instr.rshr 2147483648 0).wf = false := by decide
theorem test_wf_sshift_high : (Instr.sshift 0 32).wf = false := by decide
theorem test_wf_sshift_low : (Instr.sshift 0 (-33)).wf = false := by decide
theorem test_wf_sshift_wide : (Instr.sshift 2147483648 0).wf = false := by decide
theorem test_wf_sqrt_operand : (Instr.sqrt 32768 0).wf = false := by decide
theorem test_wf_sqrt_format : (Instr.sqrt 0 16).wf = false := by decide
theorem test_wf_cbrt_operand : (Instr.cbrt 32768 0).wf = false := by decide
theorem test_wf_cbrt_format : (Instr.cbrt 0 16).wf = false := by decide
theorem test_wf_sincos : (Instr.sincos (-32769)).wf = false := by decide
theorem test_wf_tan_operand : (Instr.tan 32768 0).wf = false := by decide
theorem test_wf_tan_format : (Instr.tan 0 16).wf = false := by decide
theorem test_wf_atan2_y : (Instr.atan2 32768 0).wf = false := by decide
theorem test_wf_atan2_x : (Instr.atan2 0 32768).wf = false := by decide
theorem test_wf_atan_operand : (Instr.atan 32768 0).wf = false := by decide
theorem test_wf_atan_format : (Instr.atan 0 16).wf = false := by decide
theorem test_wf_asin : (Instr.asin 32768).wf = false := by decide
theorem test_wf_acos : (Instr.acos 32768).wf = false := by decide
theorem test_wf_sinh_fy : (Instr.sinh 16 0 0).wf = false := by decide
theorem test_wf_sinh_operand : (Instr.sinh 0 32768 0).wf = false := by decide
theorem test_wf_sinh_fx : (Instr.sinh 0 0 16).wf = false := by decide
theorem test_wf_cosh : (Instr.cosh 16 0 0).wf = false ∧ (Instr.cosh 0 32768 0).wf = false ∧
    (Instr.cosh 0 0 16).wf = false := by decide
theorem test_wf_tanh : (Instr.tanh 16 0 0).wf = false ∧ (Instr.tanh 0 32768 0).wf = false ∧
    (Instr.tanh 0 0 16).wf = false := by decide

/-! ## Decoding: `OPC FY FX B A` in hexadecimal digits `oo y x bbbb aaaa` (R60) -/

theorem test_decode_sat : decodeTableWord 48 0x01_00_FFFFFFFF = some (.sat (-1)) := by decide
theorem test_decode_rshr : decodeTableWord 48 0x02_1F_00000001 = some (.rshr 1 31) := by decide
theorem test_decode_sshift : decodeTableWord 48 0x03_3F_00000001 = some (.sshift 1 (-1)) := by decide
theorem test_decode_sqrt : decodeTableWord 48 0x10_0_F_0000_8000 = some (.sqrt (-32768) 15) := by decide
theorem test_decode_cbrt : decodeTableWord 48 0x11_0_8_0000_0800 = some (.cbrt 2048 8) := by decide
theorem test_decode_sincos : decodeTableWord 48 0x20_0_0_0000_C000 = some (.sincos (-16384)) := by decide
theorem test_decode_tan : decodeTableWord 48 0x21_C_0_0000_2000 = some (.tan 8192 12) := by decide
theorem test_decode_atan2 : decodeTableWord 48 0x22_0_0_FFFB_0005 = some (.atan2 5 (-5)) := by decide
theorem test_decode_atan : decodeTableWord 48 0x23_0_E_0000_7FFF = some (.atan 32767 14) := by decide
theorem test_decode_asin : decodeTableWord 48 0x24_0_0_0000_FFFF = some (.asin (-1)) := by decide
theorem test_decode_acos : decodeTableWord 48 0x25_0_0_0000_0064 = some (.acos 100) := by decide
theorem test_decode_sinh : decodeTableWord 48 0x30_8_C_0000_2000 = some (.sinh 8 8192 12) := by decide
theorem test_decode_cosh : decodeTableWord 48 0x31_4_0_0000_0005 = some (.cosh 4 5 0) := by decide
theorem test_decode_tanh : decodeTableWord 48 0x32_F_E_0000_7FFF = some (.tanh 15 32767 14) := by decide
theorem test_decode_clrerr : decodeTableWord 48 0xF0_0_0_0000_0000 = some .clrerr := by decide
theorem test_decode_rderr : decodeTableWord 48 0xF1_0_0_0000_0000 = some .rderr := by decide

/-- The unassigned codes of 95_test_vectors.md 2.1. -/
theorem test_reserved_opcodes : [0x000000000000, 0x400000000000, 0x120000000000, 0x260000000000, 0x330000000000,
    0xF20000000000, 0xFFFFFFFFFFFF].map decode = List.replicate 7 (.illegal .reservedOpcode) := by decide +kernel

/-- The words of 2.1 with a bit set that must be zero. -/
theorem test_nonzero_fields : [0x100000010004, 0x200100000000, 0x201000000000, 0x210100004000, 0x220F00000001,
    0x022000000001, 0x034000000001, 0x230F00010000, 0x240100000000, 0x0101FFFFFFFF, 0x32FF00017FFF,
    0xF00000000001].map decode = List.replicate 12 (.illegal .nonzeroField) := by decide +kernel

/-- No two rows of R63 overlap. -/
theorem test_rows_disjoint : rows.Pairwise fun p q => ¬ p.1 &&& q.2 = q.1 := by decide

/-! ## Results: one step from reset -/

/-- The state after the step, or reset if there is none. -/
def nextOf : Host.Outcome State Fault Refusal → State
  | .next t => t
  | _ => State.reset

/-- The unit after one command word, issued to the unit `s`. -/
def after (w : Nat) (s : State := State.reset) : State := nextOf (step (s.withFetchWord 48 w))

/-- `R0`, `R1` as signed integers, and `ERR`. -/
def seen (s : State) : Int × Int × Nat := (s.r0.toInt, s.r1.toInt, s.err.toNat)

/-- A unit with both latches written and DOMAIN pending. -/
def busyUnit : State :=
  { State.reset with err := 1, r0 := 77, r1 := 88, r0Written := true, r1Written := true }

theorem test_sat_high : seen (after 0x010000008000 busyUnit) = (32767, 88, 1) := by decide
theorem test_sat_low : seen (after 0x0100FFFF7FFF busyUnit) = (-32768, 88, 1) := by decide
theorem test_rshr_tie : seen (after 0x0201FFFFFFFB busyUnit) = (-3, -1, 1) := by decide
theorem test_rshr_half : seen (after 0x021F40000000 busyUnit) = (1, 0, 1) := by decide
theorem test_sshift_left : seen (after 0x033E00004E20 busyUnit) = (0x3880, 1, 1) := by decide
theorem test_sshift_out : seen (after 0x0320FFFFFFFF busyUnit) = (0, 0, 1) := by decide
theorem test_sqrt_floor : seen (after 0x100F00004000 busyUnit) = (23170, 88, 1) := by decide
theorem test_sqrt_domain : seen (after 0x100F00008000) = (0, 0, 1) := by decide
theorem test_cbrt_last_step : seen (after 0x110000007FFF busyUnit) = (32, 88, 1) := by decide +kernel
/-- U1: a negative operand completes, `ERR` and `R1` are unchanged; nothing is said of `R0`. -/
theorem test_cbrt_negative : (after 0x11000000FFFF busyUnit).answer = some .done ∧
    (after 0x11000000FFFF busyUnit).err = 1 ∧ (after 0x11000000FFFF busyUnit).r1 = 88 := by decide
theorem test_sincos_pi_6 : seen (after 0x200000001555 busyUnit) = (16385, 28379, 1) := by decide
theorem test_sincos_mirrored : seen (after 0x20000000B1E0 busyUnit) = (-30815, -11139, 1) := by decide
theorem test_tan_format : seen (after 0x21C000002AAB busyUnit) = (7094, 88, 1) := by decide +kernel
theorem test_tan_asymptote : seen (after 0x21700000C000) = (-32767, 0, 1) := by decide
theorem test_atan2_reflected : seen (after 0x2200FFFCFFFD busyUnit) = (-26857, 88, 1) := by decide
theorem test_atan2_asymmetric : seen (after 0x22000004FFFD busyUnit) = (-7208, 88, 1) := by decide
theorem test_atan_halvings : seen (after 0x230000007FFF busyUnit) = (16383, 88, 1) := by decide +kernel
theorem test_atan_fraction : seen (after 0x2308000001BB busyUnit) = (10919, 88, 1) := by decide
theorem test_asin_minus_one : seen (after 0x240000008000 busyUnit) = (-16384, 88, 1) := by decide
theorem test_asin_near_one : seen (after 0x240000007FFF busyUnit) = (16301, 88, 1) := by decide
theorem test_acos_minus_one : seen (after 0x250000008000 busyUnit) = (32767, 88, 1) := by decide
theorem test_acos_negative : seen (after 0x25000000C000 busyUnit) = (21845, 88, 1) := by decide
theorem test_sinh_last_exponent : seen (after 0x300100000015 busyUnit) = (18160, 88, 1) := by decide
theorem test_sinh_negative : seen (after 0x30CC0000D800 busyUnit) = (-24783, 88, 1) := by decide
theorem test_cosh_negative : seen (after 0x31CC0000D800 busyUnit) = (25119, 88, 1) := by decide
theorem test_cosh_saturated : seen (after 0x31010000FFEA busyUnit) = (32767, 88, 1) := by decide
theorem test_tanh_zero : seen (after 0x32FF00000000 busyUnit) = (4, 88, 1) := by decide +kernel
theorem test_tanh_threshold : seen (after 0x32F00000FFF3 busyUnit) = (-32767, 88, 1) := by decide
theorem test_clrerr : seen (after 0xF00000000000 busyUnit) = (77, 88, 0) := by decide
theorem test_rderr : seen (after 0xF10000000000 busyUnit) = (1, 88, 1) := by decide

/-- The loop's end state of `ATAN2 -3, -4` (trace in 95_test_vectors.md 2.9): exit before index 3. -/
theorem test_atan2_registers : (after 0x2200FFFCFFFD).work.x = 8 ∧ (after 0x2200FFFCFFFD).work.y = 0 ∧
    (after 0x2200FFFCFFFD).work.z = 5911 ∧ (after 0x2200FFFCFFFD).work.i = 2 := by decide

theorem test_rom_is_default : (after 0x200000001555).rom = Rom.default := by decide

/-! ## Witnesses: concrete states and operands that meet the hypotheses of each statement with hypotheses -/

/-- Each match and mask clause, at a word with every operand bit set. -/
theorem witness_DecodeFollowsMatchAndMask :
    (0x0100FFFFFFFF : CommandWord) &&& 0xFFFF00000000 = 0x010000000000 ∧
    (0x021FFFFFFFFF : CommandWord) &&& 0xFFE000000000 = 0x020000000000 ∧
    (0x033FFFFFFFFF : CommandWord) &&& 0xFFC000000000 = 0x030000000000 ∧
    (0x100F0000FFFF : CommandWord) &&& 0xFFF0FFFF0000 = 0x100000000000 ∧
    (0x110F0000FFFF : CommandWord) &&& 0xFFF0FFFF0000 = 0x110000000000 ∧
    (0x20000000FFFF : CommandWord) &&& 0xFFFFFFFF0000 = 0x200000000000 ∧
    (0x21F00000FFFF : CommandWord) &&& 0xFF0FFFFF0000 = 0x210000000000 ∧
    (0x2200FFFFFFFF : CommandWord) &&& 0xFFFF00000000 = 0x220000000000 ∧
    (0x230F0000FFFF : CommandWord) &&& 0xFFF0FFFF0000 = 0x230000000000 ∧
    (0x24000000FFFF : CommandWord) &&& 0xFFFFFFFF0000 = 0x240000000000 ∧
    (0x25000000FFFF : CommandWord) &&& 0xFFFFFFFF0000 = 0x250000000000 ∧
    (0x30FF0000FFFF : CommandWord) &&& 0xFF00FFFF0000 = 0x300000000000 ∧
    (0x31FF0000FFFF : CommandWord) &&& 0xFF00FFFF0000 = 0x310000000000 ∧
    (0x32FF0000FFFF : CommandWord) &&& 0xFF00FFFF0000 = 0x320000000000 := by decide

/-- The test of all rows, as a computation. -/
theorem matches_no_row {c : CommandWord} (h : (rows.all fun row => c &&& row.2 != row.1) = true) :
    ∀ row ∈ rows, c &&& row.2 ≠ row.1 :=
  fun row hr => bne_iff_ne.mp (List.all_eq_true.mp h row hr)

/-- The clause for words that match no row: a reserved code, and a row's code with one bit too many. -/
theorem witness_DecodeFollowsMatchAndMask_illegal :
    (∀ row ∈ rows, (0x120000000000 : CommandWord) &&& row.2 ≠ row.1) ∧
    (∀ row ∈ rows, (0xF00000000001 : CommandWord) &&& row.2 ≠ row.1) :=
  ⟨matches_no_row (by decide), matches_no_row (by decide)⟩

/-- Every constructor at the low and the high end of each field. -/
theorem witness_DecodeOfEncode : ∀ i ∈ [Instr.sat (-2147483648), .sat 2147483647, .rshr (-2147483648) 0,
    .rshr 2147483647 31, .sshift (-2147483648) (-32), .sshift 2147483647 31, .sqrt (-32768) 0, .sqrt 32767 15,
    .cbrt (-32768) 0, .cbrt 32767 15, .sincos (-32768), .sincos 32767, .tan (-32768) 0, .tan 32767 15,
    .atan2 (-32768) 32767, .atan2 32767 (-32768)] ++ [.atan (-32768) 0, .atan 32767 15, .asin (-32768), .asin 32767,
    .acos (-32768), .acos 32767, .sinh 0 (-32768) 15, .sinh 15 32767 0, .cosh 0 (-32768) 15, .cosh 15 32767 0,
    .tanh 0 (-32768) 15, .tanh 15 32767 0, .clrerr, .rderr], i.wf = true := by decide

theorem witness_EncodeOfDecode : decode 0x21F000008000 = .operation (.tan (-32768) 15) := by decide

theorem witness_StepRunsDecodedInstruction_issue :
    { State.reset with pending := [.issue 0xF10000000000, .reset] }.pending = .issue 0xF10000000000 :: [.reset] ∧
    decode 0xF10000000000 = .operation .rderr := by decide

theorem witness_StepRunsDecodedInstruction_fetch :
    decodeTableWord 48 0x32FF00008000 = some (.tanh 15 (-32768) 15) := by decide

theorem witness_StepRunsDecodedInstruction_illegal :
    { busyUnit with pending := [.issue 0x120000000000] }.pending = .issue 0x120000000000 :: [] ∧
    decode 0x120000000000 = .illegal .reservedOpcode := by decide

theorem witness_IllegalWordChangesNothing : ∀ row ∈ rows, (0x120000000000 : CommandWord) &&& row.2 ≠ row.1 :=
  matches_no_row (by decide)

theorem witness_HostReadHasNoSideEffect_r0 :
    { busyUnit with pending := [.read .r0] }.pending = .read .r0 :: [] ∧ busyUnit.r0Written = true ∧
    { State.reset with pending := [.read .r0] }.pending = .read .r0 :: [] ∧ State.reset.r0Written ≠ true := by decide

theorem witness_HostReadHasNoSideEffect_r1 :
    { busyUnit with pending := [.read .r1] }.pending = .read .r1 :: [] ∧ busyUnit.r1Written = true ∧
    { State.reset with pending := [.read .r1] }.pending = .read .r1 :: [] ∧ State.reset.r1Written ≠ true := by decide

theorem witness_IdleUnitKeepsState : busyUnit.pending = [] := by decide

theorem witness_ResetEventClears_between :
    { busyUnit with pending := [.reset, .read .r0] }.pending = .reset :: [.read .r0] := by decide

theorem witness_ResetEventClears_during : ∃ c,
    { busyUnit with pending := [.resetDuring 0x200000001555] }.pending = .resetDuring c :: [] := ⟨_, rfl⟩

/-- Both values of `ERR`, and both latches written. -/
theorem witness_StepKeepsInv : (Inv State.reset ∧ ∃ t, step State.reset = .next t) ∧
    Inv busyUnit ∧ ∃ t, step (busyUnit.withFetchWord 48 0x200000001555) = .next t :=
  ⟨⟨⟨.inl rfl, by decide⟩, _, rfl⟩, ⟨.inr rfl, by decide⟩, _, rfl⟩

/-- A word that is an operation, and one that is not. -/
theorem witness_EveryStepCompletes :
    ({ busyUnit with pending := [.issue 0x11000000FFFF] }.pending = .issue 0x11000000FFFF :: [] ∧
      ∃ i, decode 0x11000000FFFF = .operation i) ∧
    { busyUnit with pending := [.issue 0x120000000000] }.pending = .issue 0x120000000000 :: [] ∧
      ∃ why, decode 0x120000000000 = .illegal why :=
  ⟨⟨rfl, .cbrt (-1) 0, by decide⟩, rfl, .reservedOpcode, by decide⟩

theorem witness_RomNeverWritten : ∃ t, step (State.reset.withFetchWord 48 0x11000000FFFF) = .next t := ⟨_, rfl⟩

/-- An operation that writes `R1`, one that does not, `CLRERR`, and one that uses a free value. -/
theorem witness_LatchFrame :
    (WritesR1 (.sincos (-32768)) ∧ ∃ t, exec (.sincos (-32768)) busyUnit = .next t) ∧
    (¬ WritesR1 .clrerr ∧ ∃ t, exec .clrerr busyUnit = .next t) ∧
    (Draws (.cbrt (-1) 0) ∧ Instr.cbrt (-1) 0 ≠ .clrerr ∧ ∃ t, exec (.cbrt (-1) 0) busyUnit = .next t) ∧
    (¬ Draws (.cbrt 0 0) ∧ ∃ t, exec (.cbrt 0 0) busyUnit = .next t) :=
  ⟨⟨trivial, _, rfl⟩, ⟨fun h => h, _, rfl⟩, ⟨show (-1 : Int) < 0 by decide, by decide, _, rfl⟩,
    show ¬ (0 : Int) < 0 by decide, _, rfl⟩

theorem witness_WorkingRegisterFrame : ∃ t, exec (.asin 32767) busyUnit = .next t := ⟨_, rfl⟩

theorem witness_OnlyListedOperandsSignal :
    (Signals (.sqrt (-1) 15) ∧ ∃ t, exec (.sqrt (-1) 15) State.reset = .next t) ∧
    (Signals (.tan 16384 0) ∧ ∃ t, exec (.tan 16384 0) State.reset = .next t) ∧
    (Signals (.tan (-16384) 15) ∧ ∃ t, exec (.tan (-16384) 15) State.reset = .next t) ∧
    (¬ Signals (.sqrt 0 15) ∧ Instr.sqrt 0 15 ≠ .clrerr ∧ ∃ t, exec (.sqrt 0 15) busyUnit = .next t) ∧
    (¬ Signals (.tan 16385 0) ∧ ¬ Signals (.tan 16383 0)) ∧ ∃ t, exec .clrerr busyUnit = .next t := by
  refine ⟨⟨?_, _, rfl⟩, ⟨?_, _, rfl⟩, ⟨?_, _, rfl⟩, ⟨?_, by decide, _, rfl⟩, ?_, _, rfl⟩ <;>
    simp only [Signals] <;> decide

/-- Two units that differ in `ERR` and both latches. -/
theorem witness_ResultIndependentOfHistory :
    State.reset.rom = busyUnit.rom ∧ State.reset.draws = busyUnit.draws ∧
    (∃ t, exec (.sincos 16385) State.reset = .next t) ∧ (∃ v, exec (.sincos 16385) busyUnit = .next v) ∧
    Instr.sincos 16385 ≠ .rderr ∧ Instr.sincos 16385 ≠ .clrerr ∧ WritesR1 (.sincos 16385) :=
  ⟨rfl, rfl, ⟨_, rfl⟩, ⟨_, rfl⟩, by decide, by decide, trivial⟩

/-- The clause on `ERR`: an operation that signals. -/
theorem witness_ResultIndependentOfHistory_err :
    (∃ t, exec (.sqrt (-1) 0) State.reset = .next t) ∧ (∃ v, exec (.sqrt (-1) 0) busyUnit = .next v) ∧
    Instr.sqrt (-1) 0 ≠ .rderr ∧ Signals (.sqrt (-1) 0) :=
  ⟨⟨_, rfl⟩, ⟨_, rfl⟩, by decide, show (-1 : Int) < 0 by decide⟩

/-- A signal, a success and a `CLRERR`, with a read still to come. -/
def queuedUnit : State :=
  { State.reset with pending :=
      [.issue 0x10000000FFFF, .issue 0x100000000004, .issue 0xF00000000000, .read .r0] }

theorem witness_RunIsFoldOfCommands : queuedUnit.pending =
    [0x10000000FFFF, 0x100000000004, 0xF00000000000].map .issue ++ [.read .r0] := by decide

theorem witness_IndicatorIsSticky : queuedUnit.pending = [0x10000000FFFF, 0x100000000004].map .issue ++
    [.issue 0xF00000000000, .read .r0] := by decide

/-- The command between `CLRERR` and `RDERR` signals. -/
theorem witness_ClearRunReadAttributes_signal :
    decode 0x21700000C000 = .operation (.tan (-16384) 7) ∧ Signals (.tan (-16384) 7) ∧
    { busyUnit with pending := [.issue 0xF00000000000, .issue 0x21700000C000, .issue 0xF10000000000] }.pending =
      .issue 0xF00000000000 :: .issue 0x21700000C000 :: .issue 0xF10000000000 :: [] :=
  ⟨by decide, .inr rfl, rfl⟩

/-- It does not. -/
theorem witness_ClearRunReadAttributes_quiet :
    decode 0x21000000BFFF = .operation (.tan (-16385) 0) ∧ ¬ Signals (.tan (-16385) 0) ∧
    { busyUnit with pending := [.issue 0xF00000000000, .issue 0x21000000BFFF, .issue 0xF10000000000] }.pending =
      .issue 0xF00000000000 :: .issue 0x21000000BFFF :: .issue 0xF10000000000 :: [] :=
  ⟨by decide, by simp only [Signals]; decide, rfl⟩

theorem witness_UpperLatchSurvives :
    queuedUnit.pending = [0x10000000FFFF].map .issue ++
      [.issue 0x100000000004, .issue 0xF00000000000, .read .r0] ∧
    ∀ c ∈ [(0x10000000FFFF : CommandWord)], ∀ i, decode c = .operation i → ¬ WritesR1 i := by
  refine ⟨rfl, fun c hc i h => ?_⟩
  obtain rfl : c = 0x10000000FFFF := by simpa using hc
  obtain rfl : Instr.sqrt (-1) 0 = i := Decoded.operation.inj ((by decide : _ = _).symm.trans h)
  exact fun h => h

theorem witness_RshrRoundsToNearest : (Instr.rshr (-2147483648) 31).wf = true ∧
    (Instr.rshr 2147483647 0).wf = true := by decide

/-- The three clauses on the sign of the amount. -/
theorem witness_SshiftBothDirections : (Instr.sshift 1 1).wf = true ∧ (Instr.sshift 1 31).wf = true ∧
    (Instr.sshift 1 0).wf = true ∧ (Instr.sshift 1 (-1)).wf = true ∧ (Instr.sshift 1 (-32)).wf = true := by decide

/-- Operands below zero, zero and above, with the format at both ends. -/
theorem witness_SqrtIsFloorRoot : (Instr.sqrt (-1) 0).wf = true ∧ (Instr.sqrt 0 15).wf = true ∧
    (Instr.sqrt 32767 15).wf = true := by decide

theorem witness_CbrtIsSeventeenNewtonSteps : (Instr.cbrt (-1) 0).wf = true ∧ (Instr.cbrt 0 15).wf = true ∧
    (Instr.cbrt 1 0).wf = true ∧ (Instr.cbrt 32767 15).wf = true := by decide

/-- On both sides of each mirror boundary. -/
theorem witness_SincosIsFourteenRotations : (Instr.sincos 16384).wf = true ∧ (Instr.sincos 16385).wf = true ∧
    (Instr.sincos (-16384)).wf = true ∧ (Instr.sincos (-16385)).wf = true := by decide

theorem witness_SincosMirrorIdentity :
    ((Instr.sincos 16385).wf = true ∧ (16384 : Int) < 16385 ∧ (16383 : Int) = 32768 - 16385) ∧
    ((Instr.sincos (-32768)).wf = true ∧ (-32768 : Int) < -16384 ∧ (0 : Int) = -32768 - -32768) := by decide

theorem witness_TanIsRoundedQuotient : (Instr.tan 16384 15).wf = true ∧ (Instr.tan (-16384) 0).wf = true ∧
    (Instr.tan 16383 0).wf = true ∧ (after 0x200000003FFF).r1.toInt ≠ 0 := by decide +kernel

/-- A zero cosine, in a unit whose gain constant is zero. -/
theorem witness_TanIsRoundedQuotient_zero : ∃ u, exec (.sincos 16383)
    { State.reset with rom := { Rom.default with kCirc := 0 } } = .next u ∧ u.r1.toInt = 0 :=
  ⟨_, rfl, by decide⟩

/-- The six clauses of the quadrants and axes. -/
theorem witness_Atan2IsVectoring : (Instr.atan2 0 0).wf = true ∧ (Instr.atan2 0 (-1)).wf = true ∧
    (Instr.atan2 1 0).wf = true ∧ (Instr.atan2 (-1) 0).wf = true ∧ (Instr.atan2 (-1) 1).wf = true ∧
    (Instr.atan2 (-32768) (-32768)).wf = true := by decide

/-- One halving, and fifteen. -/
theorem witness_AtanIsAtan2OfScaledPair : (Instr.atan 32767 15).wf = true ∧ (Instr.atan (-32768) 0).wf = true := by
  decide

theorem witness_AsinIsAtan2OfRoot : (Instr.asin (-32768)).wf = true ∧ (Instr.asin 32767).wf = true := by decide

theorem witness_AcosIsAtan2OfRoot : (Instr.acos (-32768)).wf = true ∧ (Instr.acos 32767).wf = true := by decide

/-- An argument that is recomposed (10.5) and one that is short-circuited (11.0). -/
theorem witness_SinhDeliversWideSine : (Instr.sinh 0 21 1).wf = true ∧ (Instr.sinh 0 (-22) 1).wf = true ∧
    hypN Rom.default (21 * 2 ^ (15 - 1)) = 15 ∧ hypN Rom.default (-22 * 2 ^ (15 - 1)) = -16 := by decide

theorem witness_CoshDeliversWideCosine : (Instr.cosh 0 21 1).wf = true ∧ (Instr.cosh 0 (-22) 1).wf = true := by decide

/-- Beyond +12.0, beyond -12.0, and exactly 12.0, where the cosine side is not zero. -/
theorem witness_TanhIsClampedQuotient :
    ((Instr.tanh 15 24577 11).wf = true ∧ (393216 : Int) < 24577 * 2 ^ (15 - 11)) ∧
    ((Instr.tanh 15 (-24577) 11).wf = true ∧ (-24577 * 2 ^ (15 - 11) : Int) < -393216) ∧
    ((Instr.tanh 15 12 0).wf = true ∧ (-393216 : Int) ≤ 12 * 2 ^ (15 - 0) ∧ (12 * 2 ^ (15 - 0) : Int) ≤ 393216 ∧
      coshCore Rom.default (12 * 2 ^ (15 - 0)) ≠ 0) := by decide

theorem witness_TanhStaysInOpenInterval : (Instr.tanh 15 (-32768) 0).wf = true ∧
    ∃ t, exec (.tanh 15 (-32768) 0) State.reset = .next t := ⟨by decide, _, rfl⟩

/-- The least magnitude a 16-bit operand reaches above the bound, of both signs. -/
theorem witness_LargeArgumentsSaturate : (Instr.sinh 15 22004 11).wf = true ∧ (Instr.sinh 0 (-22004) 11).wf = true ∧
    State.reset.rom = Rom.default ∧ (352054 : Int) ≤ |22004 * 2 ^ (15 - 11)| ∧
    (352054 : Int) ≤ |-22004 * 2 ^ (15 - 11)| := by decide

/-- On both sides of the bound. -/
theorem witness_RangeReductionResidual : hypShort Rom.default 352054 = true ∧ hypShort Rom.default 352053 = false ∧
    hypShort Rom.default (-352054) = true ∧ hypShort Rom.default (-352053) = false := by decide

end Sys2Proof.Tests
end

section
/-! One equation per instruction: the next state written with the operations of Machine/Ops.lean, so that a proof about
`exec` goes on with the laws of Laws/State.lean. -/

namespace Sys2Proof.Machine

@[simp] theorem exec_sat (w : Int) (s : State) : exec (.sat w) s = .next (s.deliver id (sat16 w)) := rfl

@[simp] theorem exec_rshr (w : Int) (n : Nat) (s : State) :
    exec (.rshr w n) s = .next (s.deliverPair (rsr w n)) := rfl

@[simp] theorem exec_sshift (w n : Int) (s : State) :
    exec (.sshift w n) s = .next (s.deliverPair (sshift w n)) := rfl

@[simp] theorem exec_sqrt (x : Int) (f : Nat) (s : State) :
    exec (.sqrt x f) s =
      .next ((s.signalDomainIf (sqrtSignals x)).deliver (sqrtRegs x f) (sqrtCore x f)) := rfl

theorem exec_cbrt_of_nonneg {a : Int} (ha : 0 ≤ a) (f : Nat) (s : State) :
    exec (.cbrt a f) s = .next (s.deliver (cbrtRegs a f) (cbrtCore a f)) := if_pos ha

theorem exec_cbrt_of_neg {a : Int} (ha : a < 0) (f : Nat) (s : State) :
    exec (.cbrt a f) s =
      .next (s.draw.deliver (cbrtFreeRegs s.draws) (Config.freeNarrow s.draws).toInt) := if_neg (not_le.mpr ha)

@[simp] theorem exec_sincos (a : Int) (s : State) :
    exec (.sincos a) s =
      .next ((s.deliver (sincosRegs s.rom a) (sinCore s.rom a)).setR1 (cosCore s.rom a)) := rfl

@[simp] theorem exec_tan (a : Int) (f : Nat) (s : State) :
    exec (.tan a f) s =
      .next ((s.signalDomainIf (tanSignals a)).deliver (tanRegs s.rom a) (tanCore s.rom a f)) := rfl

@[simp] theorem exec_atan2 (y x : Int) (s : State) :
    exec (.atan2 y x) s = .next (s.deliver (atan2Regs s.rom y x) (atan2Core s.rom y x)) := rfl

@[simp] theorem exec_atan (y : Int) (f : Nat) (s : State) :
    exec (.atan y f) s = .next (s.deliver (atanRegs s.rom y f) (atanCore s.rom y f)) := rfl

@[simp] theorem exec_asin (x : Int) (s : State) :
    exec (.asin x) s =
      .next ((s.signalDomainIf (sqrtSignals (asinRadicand x))).deliver
        (fun w => atan2Regs s.rom x (asinC x) (sqrtRegs (asinRadicand x) 15 w))
        (atan2Core s.rom x (asinC x))) := rfl

@[simp] theorem exec_acos (x : Int) (s : State) :
    exec (.acos x) s =
      .next ((s.signalDomainIf (sqrtSignals (asinRadicand x))).deliver
        (fun w => atan2Regs s.rom (asinC x) x (sqrtRegs (asinRadicand x) 15 w))
        (atan2Core s.rom (asinC x) x)) := rfl

@[simp] theorem exec_sinh (fy : Nat) (x : Int) (fx : Nat) (s : State) :
    exec (.sinh fy x fx) s =
      .next (s.deliver (sinhcoshRegs s.rom (toq15 x fx)) (fromq15 (sinhCore s.rom (toq15 x fx)) fy)) := rfl

@[simp] theorem exec_cosh (fy : Nat) (x : Int) (fx : Nat) (s : State) :
    exec (.cosh fy x fx) s =
      .next (s.deliver (sinhcoshRegs s.rom (toq15 x fx)) (fromq15 (coshCore s.rom (toq15 x fx)) fy)) := rfl

@[simp] theorem exec_tanh (fy : Nat) (x : Int) (fx : Nat) (s : State) :
    exec (.tanh fy x fx) s =
      .next (s.deliver (tanhRegs s.rom (toq15 x fx)) (fromq15 (tanhCore s.rom (toq15 x fx)) fy)) := rfl

@[simp] theorem exec_clrerr (s : State) : exec .clrerr s = .next (s.clearErr.respond .done) := rfl

@[simp] theorem exec_rderr (s : State) : exec .rderr s = .next (s.deliver id s.err.toNat) := rfl

end Sys2Proof.Machine
end

section
/-! Two runs of one instruction compared (00_scope.md R15, 70_reset_and_hazards.md R247). The key fact is in the
equations of `exec`: every value delivered is a function of the operands, of the ROMs and, for `CBRT` of a negative
operand, of the counter of free values. -/

namespace Sys2Proof.Machine

open Sys2Proof.Claim

/-- `ERR` after an operation that signals is DOMAIN, whatever it was before (60_exceptions.md R222, R223). -/
theorem exec_err_of_signals {i : Instr} {s t : State} (hi : Signals i) (h : exec i s = .next t) :
    t.err = ErrKind.domain.code := by
  cases i with
  | sqrt x f =>
    have hx : sqrtSignals x = true := decide_eq_true hi
    simp only [exec_sqrt, Host.Outcome.next.injEq] at h
    simp [← h, hx]
  | tan a f =>
    have ha : tanSignals a = true := by simpa [tanSignals, Signals] using hi
    simp only [exec_tan, Host.Outcome.next.injEq] at h
    simp [← h, ha]
  | _ => exact hi.elim

section
variable {i : Instr} {s u t v : State}

/-- Of the state before, `R1` after an operation that writes it depends on the ROMs alone. -/
theorem exec_r1_congr (hrom : s.rom = u.rom) (hs : exec i s = .next t) (hu : exec i u = .next v)
    (hi : WritesR1 i) : t.r1 = v.r1 := by
  cases i with
  | rshr | sshift | sincos =>
    simp only [exec_rshr, exec_sshift, exec_sincos, Host.Outcome.next.injEq] at hs hu
    simp [← hs, ← hu, hrom]
  | _ => exact hi.elim

/-- Of the state before, `R0` after any operation but `CLRERR` (which keeps it) and `RDERR` (which reads `ERR`) depends
on the ROMs and the counter of free values alone. -/
theorem exec_r0_congr (hrom : s.rom = u.rom) (hdraws : s.draws = u.draws) (hs : exec i s = .next t)
    (hu : exec i u = .next v) (hc : i ≠ .clrerr) (hr : i ≠ .rderr) : t.r0 = v.r0 := by
  cases i with
  | clrerr => exact absurd rfl hc
  | rderr => exact absurd rfl hr
  | cbrt a f =>
    rcases lt_or_ge a 0 with ha | ha
    · simp only [exec_cbrt_of_neg ha, Host.Outcome.next.injEq] at hs hu
      simp [← hs, ← hu, hdraws]
    · simp only [exec_cbrt_of_nonneg ha, Host.Outcome.next.injEq] at hs hu
      simp [← hs, ← hu]
  | sat | rshr | sshift | sqrt =>
    simp only [exec_sat, exec_rshr, exec_sshift, exec_sqrt, Host.Outcome.next.injEq] at hs hu
    simp [← hs, ← hu]
  | sincos | tan | atan2 | atan | asin | acos =>
    simp only [exec_sincos, exec_tan, exec_atan2, exec_atan, exec_asin, exec_acos,
      Host.Outcome.next.injEq] at hs hu
    simp [← hs, ← hu, hrom]
  | sinh | cosh | tanh =>
    simp only [exec_sinh, exec_cosh, exec_tanh, Host.Outcome.next.injEq] at hs hu
    simp [← hs, ← hu, hrom]

end

/-- Settles O17: each of the three results is a function of the command, the ROMs and the counter of free values. -/
theorem resultIndependentOfHistory : Obligations.ResultIndependentOfHistory := by
  unfold Obligations.ResultIndependentOfHistory
  intro i s u t v hrom hdraws hs hu hrderr
  exact ⟨fun hclrerr => exec_r0_congr hrom hdraws hs hu hclrerr hrderr,
    fun hw => exec_r1_congr hrom hs hu hw,
    fun hi => (exec_err_of_signals hi hs).trans (exec_err_of_signals hi hu).symm⟩

end Sys2Proof.Machine
end

section
/-! What any operation can do to the state, said once: of what the host can see it makes one of four moves. The frame of
the latches, of `ERR` and of the ROMs (10_state.md R20, R21, R23, 60_exceptions.md R222, R223) is read off from this. -/

namespace Sys2Proof.Machine

open Sys2Proof.Claim

theorem oneResult_deliver (s : State) (f : Work → Work) (v : Int) : OneResult s (s.deliver f v) := rfl

theorem twoResults_deliverPair (s : State) (v : Int) : TwoResults s (s.deliverPair v) := rfl

theorem twoResults_deliver_setR1 (s : State) (f : Work → Work) (v w : Int) :
    TwoResults s ((s.deliver f v).setR1 w) := rfl

/-- The clamp of R151 keeps the operand of the inner square root of `ASIN` and `ACOS` non-negative. -/
theorem asinRadicand_nonneg (x : Int) : 0 ≤ asinRadicand x := by
  unfold asinRadicand
  dsimp only
  split_ifs <;> omega

/-- So the inner square root never signals. -/
@[simp] theorem sqrtSignals_asinRadicand (x : Int) : sqrtSignals (asinRadicand x) = false :=
  decide_eq_false (not_lt.mpr (asinRadicand_nonneg x))

section
variable {i : Instr} {s t : State}

/-- The four moves: clear the indicator, write both latches, write `R0` with a free value, or write `R0` after
signalling DOMAIN exactly for the operands of R222. -/
theorem exec_cases (h : exec i s = .next t) :
    (i = .clrerr ∧ t = s.clearErr.respond .done) ∨
    (i ≠ .clrerr ∧ WritesR1 i ∧ ¬ Draws i ∧ TwoResults s t) ∨
    (i ≠ .clrerr ∧ ¬ WritesR1 i ∧ Draws i ∧ OneResult s.draw t) ∨
    (i ≠ .clrerr ∧ ¬ WritesR1 i ∧ ¬ Draws i ∧
      ∃ b, (b = true ↔ Signals i) ∧ OneResult (s.signalDomainIf b) t) := by
  cases i with
  | clrerr => exact .inl ⟨rfl, by simpa using h.symm⟩
  | rshr | sshift =>
    simp only [exec_rshr, exec_sshift, Host.Outcome.next.injEq] at h
    exact .inr (.inl ⟨nofun, trivial, id, h ▸ twoResults_deliverPair _ _⟩)
  | sincos =>
    simp only [exec_sincos, Host.Outcome.next.injEq] at h
    exact .inr (.inl ⟨nofun, trivial, id, h ▸ twoResults_deliver_setR1 _ _ _ _⟩)
  | cbrt a f =>
    rcases lt_or_ge a 0 with ha | ha
    · simp only [exec_cbrt_of_neg ha, Host.Outcome.next.injEq] at h
      exact .inr (.inr (.inl ⟨nofun, id, ha, h ▸ oneResult_deliver _ _ _⟩))
    · simp only [exec_cbrt_of_nonneg ha, Host.Outcome.next.injEq] at h
      exact .inr (.inr (.inr ⟨nofun, id, not_lt.mpr ha, false, by simp [Signals], h ▸ oneResult_deliver _ _ _⟩))
  | sqrt x f =>
    simp only [exec_sqrt, Host.Outcome.next.injEq] at h
    exact .inr (.inr (.inr ⟨nofun, id, id, sqrtSignals x, by simp [sqrtSignals, Signals],
      h ▸ oneResult_deliver _ _ _⟩))
  | tan a f =>
    simp only [exec_tan, Host.Outcome.next.injEq] at h
    exact .inr (.inr (.inr ⟨nofun, id, id, tanSignals a, by simp [tanSignals, Signals],
      h ▸ oneResult_deliver _ _ _⟩))
  | sat | atan2 | atan | asin | acos | sinh | cosh | tanh | rderr =>
    simp only [exec_sat, exec_atan2, exec_atan, exec_asin, exec_acos, exec_sinh, exec_cosh, exec_tanh, exec_rderr,
      sqrtSignals_asinRadicand, Host.Outcome.next.injEq] at h
    exact .inr (.inr (.inr ⟨nofun, id, id, false, by simp [Signals], h ▸ oneResult_deliver _ _ _⟩))

/-- A completed operation with one result, with the new values named. -/
theorem exists_of_oneResult (h : OneResult s t) :
    ∃ r w, t = { s with r0 := r, r0Written := true, work := w, answer := some .done } := ⟨_, _, h⟩

/-- A completed operation with both results, with the new values named. -/
theorem exists_of_twoResults (h : TwoResults s t) :
    ∃ r r' w, t = { s with
      r0 := r, r1 := r', r0Written := true, r1Written := true, work := w, answer := some .done } := ⟨_, _, _, h⟩

/-- `ERR` keeps its value where nothing signals and nothing clears (60_exceptions.md R223). -/
theorem exec_err_of_not_signals (hi : ¬ Signals i) (hc : i ≠ .clrerr) (h : exec i s = .next t) : t.err = s.err := by
  obtain ⟨rfl, _⟩ | ⟨_, _, _, ht⟩ | ⟨_, _, _, ht⟩ | ⟨_, _, _, b, hb, ht⟩ := exec_cases h
  · exact absurd rfl hc
  · obtain ⟨r, r', w, rfl⟩ := exists_of_twoResults ht; rfl
  · obtain ⟨r, w, rfl⟩ := exists_of_oneResult ht; rfl
  · obtain ⟨r, w, rfl⟩ := exists_of_oneResult ht
    simp [mt hb.mp hi]

/-- `ERR` after an operation is what it was, NONE or DOMAIN (10_state.md R21, 60_exceptions.md R222). -/
theorem exec_err_cases (h : exec i s = .next t) :
    t.err = s.err ∨ t.err = errNone ∨ t.err = ErrKind.domain.code := by
  by_cases hi : Signals i
  · exact .inr (.inr (exec_err_of_signals hi h))
  · by_cases hc : i = .clrerr
    · subst hc
      simp only [exec_clrerr, Host.Outcome.next.injEq] at h
      exact .inr (.inl (by simp [← h]))
    · exact .inl (exec_err_of_not_signals hi hc h)

end

/-- Settles O14: each clause is read off from the four moves of `exec_cases`. -/
theorem latchFrame : Obligations.LatchFrame := by
  unfold Obligations.LatchFrame
  intro i s t h
  obtain ⟨rfl, rfl⟩ | ⟨hc, hw, hd, ht⟩ | ⟨hc, hw, hd, ht⟩ | ⟨hc, hw, hd, b, _, ht⟩ := exec_cases h
  · simp [WritesR1, Draws]
  · obtain ⟨r, r', w, rfl⟩ := exists_of_twoResults ht
    simp [hc, hw, hd]
  · obtain ⟨r, w, rfl⟩ := exists_of_oneResult ht
    simp [hc, hw, hd]
  · obtain ⟨r, w, rfl⟩ := exists_of_oneResult ht
    simp [hc, hw, hd]

section
variable {i : Instr} {s t : State}

/-- No operation writes the ROMs (10_state.md R20). -/
theorem exec_rom (h : exec i s = .next t) : t.rom = s.rom := by
  obtain ⟨_, _, _, _, _, _, hrom, _⟩ := latchFrame i s t h
  exact hrom

/-- Every operation but `CLRERR` writes `R0` (10_state.md R23, 44_system.md R210). -/
theorem exec_r0Written (hc : i ≠ .clrerr) (h : exec i s = .next t) : t.r0Written = true := by
  obtain ⟨_, _, hr0, _⟩ := latchFrame i s t h
  exact hr0 hc

end

end Sys2Proof.Machine
end

section
/-! What every step keeps (10_state.md R20, R21, R23), what a host read does (R23, R37) and the state after reset
(R37). -/

namespace Sys2Proof.Machine

open Sys2Proof.Claim

/-- Every operation keeps the invariant: one that writes `R1` writes `R0` too, since only `CLRERR` does not. -/
theorem exec_keeps_inv {i : Instr} {s t : State} (hs : Inv s) (h : exec i s = .next t) : Inv t := by
  obtain ⟨herr, hwritten⟩ := hs
  have herr' : t.err = errNone ∨ t.err = ErrKind.domain.code := by
    obtain he | he := exec_err_cases h
    · rwa [he]
    · exact he
  refine ⟨herr', fun hr1 => ?_⟩
  by_cases hc : i = .clrerr
  · subst hc
    cases h
    exact hwritten hr1
  · exact exec_r0Written hc h

/-- Reset meets the invariant whatever it finds (70_reset_and_hazards.md R240, R241). -/
theorem inv_applyReset (s : State) : Inv s.applyReset := ⟨.inl rfl, nofun⟩

/-- Settles O11, by cases on what a step can have done: an operation keeps the invariant by `exec_keeps_inv`, an illegal
word and a host read change only the answer and the list of events, and reset establishes it. -/
theorem stepKeepsInv : Obligations.StepKeepsInv := by
  unfold Obligations.StepKeepsInv
  intro s t hs h
  obtain ⟨_, rfl⟩ | ⟨e, rest, _, ⟨c, i, _, _, hx⟩ | ⟨c, why, _, _, rfl⟩ | ⟨l, _, rfl⟩ | ⟨_, rfl⟩⟩ := step_cases h
  · exact hs
  · exact exec_keeps_inv (s := { s with pending := rest }) hs hx
  · exact hs
  · exact hs
  · exact inv_applyReset _

/-- Settles O13, by cases on what a step can have done: operations leave the ROMs alone (`exec_rom`), and so does
everything else, reset included. -/
theorem romNeverWritten : Obligations.RomNeverWritten := by
  unfold Obligations.RomNeverWritten
  intro s t h
  obtain ⟨_, rfl⟩ | ⟨e, rest, _, ⟨c, i, _, _, hx⟩ | ⟨c, why, _, _, rfl⟩ | ⟨l, _, rfl⟩ | ⟨_, rfl⟩⟩ := step_cases h
  · rfl
  · exact exec_rom (s := { s with pending := rest }) hx
  · simp
  · simp
  · simp

/-- A step that serves a host read. -/
theorem step_read {s : State} {l : Latch} {rest : List HostEvent} (h : s.pending = .read l :: rest) :
    step s = .next (State.hostRead { s with pending := rest } l) := step_pending_cons h

/-- Settles O7: `step_read` at each latch. -/
theorem hostReadHasNoSideEffect : Obligations.HostReadHasNoSideEffect := by
  unfold Obligations.HostReadHasNoSideEffect
  exact fun s rest => ⟨fun h => step_read h, fun h => step_read h⟩

/-- Settles O10: the reset state is closed data, so each clause is evaluated. -/
theorem resetMeetsInvariant : Obligations.ResetMeetsInvariant := by
  unfold Obligations.ResetMeetsInvariant
  exact ⟨inv_applyReset State.reset, rfl, rfl, rfl, rfl, rfl, rfl, rfl, rfl, rfl, rfl, rfl⟩

end Sys2Proof.Machine
end

section
/-! Which working registers each operation leaves alone (10_state.md R25): one lemma per function that says what an
operation leaves in the working registers, then one line per operation. -/

namespace Sys2Proof.Machine

open Sys2Proof.Claim

section
variable (rom : Rom) (w : Work)

theorem workFrame_sqrtRegs (x : Int) (f : Nat) : WorkFrame w (sqrtRegs x f w) (.sqrt x f) := by
  unfold sqrtRegs
  split <;> rfl

theorem workFrame_cbrtRegs (a : Int) (f : Nat) : WorkFrame w (cbrtRegs a f w) (.cbrt a f) := by
  unfold cbrtRegs
  split <;> rfl

theorem workFrame_cbrtFreeRegs (a : Int) (f k : Nat) : WorkFrame w (cbrtFreeRegs k w) (.cbrt a f) := rfl

theorem workFrame_sincosRegs (a : Int) : WorkFrame w (sincosRegs rom a w) (.sincos a) := rfl

theorem workFrame_tanRegs (a : Int) (f : Nat) : WorkFrame w (tanRegs rom a w) (.tan a f) := by
  unfold tanRegs
  split
  · rfl
  · exact workFrame_sincosRegs rom w a

theorem workFrame_atan2Regs (y x : Int) : WorkFrame w (atan2Regs rom y x w) (.atan2 y x) := by
  unfold atan2Regs
  split <;> rfl

theorem workFrame_atanRegs (y : Int) (f : Nat) : WorkFrame w (atanRegs rom y f w) (.atan y f) :=
  workFrame_atan2Regs rom { w with i := BitVec.ofNat 5 ((atanScale y f).halvings - 1) } _ _

theorem workFrame_sinhcoshRegs (xq : Int) (fy : Nat) (x : Int) (fx : Nat) :
    WorkFrame w (sinhcoshRegs rom xq w) (.sinh fy x fx) := by
  unfold sinhcoshRegs
  dsimp only
  split <;> rfl

theorem workFrame_tanhRegs (xq : Int) (fy : Nat) (x : Int) (fx : Nat) :
    WorkFrame w (tanhRegs rom xq w) (.tanh fy x fx) := by
  unfold tanhRegs
  split
  · rfl
  · exact workFrame_sinhcoshRegs rom w xq fy x fx

end

/-- `ASIN` and `ACOS` use the registers of the square root, then those of the vectoring loop. -/
theorem workFrame_sqrt_atan2 {w w₁ w₂ : Work} {r y c : Int} {f : Nat} (h₁ : WorkFrame w w₁ (.sqrt r f))
    (h₂ : WorkFrame w₁ w₂ (.atan2 y c)) (x : Int) : WorkFrame w w₂ (.asin x) := by
  obtain ⟨r₁, s₁, b₁, i₁, rfl⟩ : ∃ r s b i, w₁ = { w with rem := r, res := s, bit := b, i := i } := ⟨_, _, _, _, h₁⟩
  rw [h₂]
  rfl

/-- Settles O15, by cases on the operation: `deliver` applies one register function, whose frame is a lemma above. -/
theorem workingRegisterFrame : Obligations.WorkingRegisterFrame := by
  unfold Obligations.WorkingRegisterFrame
  intro i s t h
  cases i with
  | sat | rshr | sshift | clrerr | rderr =>
    simp only [exec_sat, exec_rshr, exec_sshift, exec_clrerr, exec_rderr, Host.Outcome.next.injEq] at h
    subst h
    rfl
  | sqrt x f => cases h; simpa using workFrame_sqrtRegs s.work x f
  | cbrt a f =>
    rcases lt_or_ge a 0 with ha | ha
    · cases (exec_cbrt_of_neg ha f s).symm.trans h
      exact workFrame_cbrtFreeRegs s.work a f s.draws
    · cases (exec_cbrt_of_nonneg ha f s).symm.trans h
      exact workFrame_cbrtRegs s.work a f
  | sincos a => cases h; exact workFrame_sincosRegs s.rom s.work a
  | tan a f => cases h; simpa using workFrame_tanRegs s.rom s.work a f
  | atan2 y x => cases h; exact workFrame_atan2Regs s.rom s.work y x
  | atan y f => cases h; exact workFrame_atanRegs s.rom s.work y f
  | asin x | acos x =>
    cases h
    rw [State.deliver_work, State.signalDomainIf_work]
    exact workFrame_sqrt_atan2 (workFrame_sqrtRegs s.work (asinRadicand x) 15) (workFrame_atan2Regs s.rom _ _ _) x
  | sinh fy x fx | cosh fy x fx => cases h; exact workFrame_sinhcoshRegs s.rom s.work _ fy x fx
  | tanh fy x fx => cases h; exact workFrame_tanhRegs s.rom s.work _ fy x fx

end Sys2Proof.Machine
end

section
/-! The command port (20_memory.md R51, R53, R54). An issued word always goes on, to the state `commandEffect` names;
that effect neither reads nor changes the list of host events. So a run over a program's words is the fold of their
effects over the state before, whatever else the host has planned. -/

namespace Sys2Proof.Machine

open Sys2Proof.Claim

/-! ### One operation -/

/-- No operation stops the unit (70_reset_and_hazards.md R251). -/
theorem exec_completes (i : Instr) (s : State) : Completes (exec i s) := by
  cases i with
  | cbrt a f =>
    rcases lt_or_ge a 0 with ha | ha
    · exact ⟨_, exec_cbrt_of_neg ha f s⟩
    · exact ⟨_, exec_cbrt_of_nonneg ha f s⟩
  | _ => exact ⟨_, rfl⟩

theorem signalDomainIf_with_pending (s : State) (b : Bool) (q : List HostEvent) :
    State.signalDomainIf { s with pending := q } b = { s.signalDomainIf b with pending := q } := by
  cases b <;> rfl

section
variable {i : Instr} {s t : State}

theorem exec_pending (h : exec i s = .next t) : t.pending = s.pending := by
  obtain ⟨_, _, _, _, _, _, _, hpending, _⟩ := latchFrame i s t h
  exact hpending

theorem exec_answer (h : exec i s = .next t) : t.answer = some .done := by
  obtain ⟨_, _, _, _, _, _, _, _, hanswer⟩ := latchFrame i s t h
  exact hanswer

/-- No operation reads the list of host events. -/
theorem exec_with_pending (h : exec i s = .next t) (q : List HostEvent) :
    exec i { s with pending := q } = .next { t with pending := q } := by
  cases i with
  | cbrt a f =>
    rcases lt_or_ge a 0 with ha | ha
    · cases (exec_cbrt_of_neg ha f s).symm.trans h
      exact exec_cbrt_of_neg ha f _
    · cases (exec_cbrt_of_nonneg ha f s).symm.trans h
      exact exec_cbrt_of_nonneg ha f _
  | sqrt | tan | asin | acos =>
    cases h
    simp only [exec_sqrt, exec_tan, exec_asin, exec_acos, signalDomainIf_with_pending]
    rfl
  | _ => cases h; rfl

end

/-! ### One command word -/

section
variable {c : CommandWord} {i : Instr} {s t : State}

theorem commandEffect_of_illegal {why : IllegalReason} (hd : decode c = .illegal why) (s : State) :
    commandEffect s c = s.respond .illegal := by
  rw [commandEffect, hd]
  rfl

theorem exec_eq_commandEffect (hd : decode c = .operation i) (s : State) :
    exec i s = .next (commandEffect s c) := by
  obtain ⟨t, ht⟩ := exec_completes i s
  simp only [commandEffect, hd, ht]

/-- Serving an issued word always goes on, and to the effect of the word. -/
theorem serve_issue (c : CommandWord) (s : State) : serve (.issue c) s = .next (commandEffect s c) := by
  cases hd : decode c with
  | operation i => rw [serve_issue_operation s hd, exec_eq_commandEffect hd]
  | illegal why => rw [serve_issue_illegal s hd, commandEffect_of_illegal hd]

theorem step_issue {rest : List HostEvent} (h : s.pending = .issue c :: rest) :
    step s = .next (commandEffect { s with pending := rest } c) :=
  (step_pending_cons h).trans (serve_issue c _)

@[simp] theorem commandEffect_pending (s : State) (c : CommandWord) : (commandEffect s c).pending = s.pending := by
  cases hd : decode c with
  | operation i => exact exec_pending (exec_eq_commandEffect hd s)
  | illegal why => rw [commandEffect_of_illegal hd, State.respond_pending]

/-- An operation is acknowledged with DONE (R51). -/
theorem commandEffect_answer_of_operation (hd : decode c = .operation i) (s : State) :
    (commandEffect s c).answer = some .done := exec_answer (exec_eq_commandEffect hd s)

/-- An illegal word is answered ILLEGAL (30_encoding.md R72). -/
theorem commandEffect_answer_of_illegal {why : IllegalReason} (hd : decode c = .illegal why) (s : State) :
    (commandEffect s c).answer = some .illegal := by
  rw [commandEffect_of_illegal hd, State.respond_answer]

/-- No command word's effect reads the list of host events. -/
theorem commandEffect_with_pending (s : State) (c : CommandWord) (q : List HostEvent) :
    commandEffect { s with pending := q } c = { commandEffect s c with pending := q } := by
  cases hd : decode c with
  | operation i =>
    exact Host.Outcome.next.inj
      ((exec_eq_commandEffect hd _).symm.trans (exec_with_pending (exec_eq_commandEffect hd s) q))
  | illegal why =>
    simp only [commandEffect_of_illegal hd]
    rfl

end

/-! ### A sequence of command words -/

theorem foldl_commandEffect_with_pending (ws : List CommandWord) (s : State) (q : List HostEvent) :
    ws.foldl commandEffect { s with pending := q } = { ws.foldl commandEffect s with pending := q } := by
  induction ws generalizing s with
  | nil => rfl
  | cons c ws ih => rw [List.foldl_cons, commandEffect_with_pending, ih, List.foldl_cons]

/-- A run whose first step goes on is the run from there. -/
theorem run_succ_of_step {M : Host.Core} {s t : M.State} (h : M.step s = .next t) (k : Nat) :
    M.run (k + 1) s = M.run k t := by
  simp only [Host.Core.run, h]

/-- The run over the words the host issues next: their effects one after the other, and these events gone. -/
theorem run_issue_map (ws : List CommandWord) (s : State) (rest : List HostEvent)
    (h : s.pending = ws.map .issue ++ rest) :
    core.run ws.length s = .next { ws.foldl commandEffect s with pending := rest } := by
  induction ws generalizing s with
  | nil =>
    obtain rfl : s.pending = rest := h
    rfl
  | cons c ws ih =>
    rw [List.length_cons, run_succ_of_step (M := core) (step_issue h), ih _ (commandEffect_pending _ c),
      commandEffect_with_pending, foldl_commandEffect_with_pending, List.foldl_cons]

/-! ### What the opcode table's words decode to -/

theorem eq_operation_of_instr? {d : Decoded} {i : Instr} (h : d.instr? = some i) : d = .operation i := by
  cases d with
  | operation j => exact congrArg Decoded.operation (Option.some.inj h)
  | illegal why => cases h

/-! ### The statements -/

/-- Settles O12: an issued word goes on by `step_issue`, and its answer is that of `commandEffect`; every other event
goes on by definition of `serve`. -/
theorem everyStepCompletes : Obligations.EveryStepCompletes := by
  unfold Obligations.EveryStepCompletes
  intro s
  cases hp : s.pending with
  | nil => exact ⟨s, step_pending_nil hp, nofun⟩
  | cons e rest =>
    cases e with
    | issue c =>
      refine ⟨_, step_issue hp, fun c' rest' h => ?_⟩
      cases h
      exact ⟨commandEffect_pending _ c, fun ⟨_, hd⟩ => commandEffect_answer_of_operation hd _,
        fun ⟨_, hd⟩ => commandEffect_answer_of_illegal hd _⟩
    | read | reset | resetDuring => exact ⟨_, step_pending_cons hp, nofun⟩

/-- Settles O18: `run_issue_map`, the fold taken with an empty list of events. -/
theorem runIsFoldOfCommands : Obligations.RunIsFoldOfCommands := by
  unfold Obligations.RunIsFoldOfCommands
  intro ws s rest h
  exact ⟨_, run_issue_map ws s rest h, rfl, (foldl_commandEffect_with_pending ws s []).symm⟩

/-- Settles O5: a step serves the event at the head of the list, and `withFetchWord` puts the word there. -/
theorem stepRunsDecodedInstruction : Obligations.StepRunsDecodedInstruction := by
  unfold Obligations.StepRunsDecodedInstruction
  refine ⟨fun s c i rest hp hd => ?_, fun s c why rest hp hd => ?_, fun s w i hw => ?_⟩
  · exact (step_pending_cons hp).trans (serve_issue_operation _ hd)
  · exact (step_pending_cons hp).trans (serve_issue_illegal _ hd)
  · exact (step_pending_cons (State.present_pending s _)).trans
      (serve_issue_operation s (eq_operation_of_instr? hw))

end Sys2Proof.Machine
end

section
/-! The command word (30_encoding.md R60 to R63, R72). The decoder is said once as an equivalence: a word decodes to `i`
exactly when it matches the row of `i` and its fields hold the operands of `i`. The two round trips, the table of R63
and the illegal words follow from it. -/

namespace Sys2Proof

open Laws.Opcode (code)

/-! ### The row of an instruction -/

/-- The row of R63, (match, mask). The mask covers `OPC` and the must-be-zero fields. -/
def Instr.row (i : Instr) : CommandWord × CommandWord :=
  match i with
  | .sat _ => (mkWide (code i) 0#8 0#32, mkWide (BitVec.allOnes 8) (BitVec.allOnes 8) 0#32)
  | .rshr _ _ => (mkWide (code i) (0#3 ++ 0#5) 0#32, mkWide (BitVec.allOnes 8) (BitVec.allOnes 3 ++ 0#5) 0#32)
  | .sshift _ _ => (mkWide (code i) (0#2 ++ 0#6) 0#32, mkWide (BitVec.allOnes 8) (BitVec.allOnes 2 ++ 0#6) 0#32)
  | .sqrt _ _ | .cbrt _ _ | .atan _ _ =>
    (mkWord (code i) 0#4 0#4 0#16 0#16, mkWord (BitVec.allOnes 8) (BitVec.allOnes 4) 0#4 (BitVec.allOnes 16) 0#16)
  | .sincos _ | .asin _ | .acos _ =>
    (mkWord (code i) 0#4 0#4 0#16 0#16,
      mkWord (BitVec.allOnes 8) (BitVec.allOnes 4) (BitVec.allOnes 4) (BitVec.allOnes 16) 0#16)
  | .tan _ _ =>
    (mkWord (code i) 0#4 0#4 0#16 0#16, mkWord (BitVec.allOnes 8) 0#4 (BitVec.allOnes 4) (BitVec.allOnes 16) 0#16)
  | .atan2 _ _ =>
    (mkWord (code i) 0#4 0#4 0#16 0#16, mkWord (BitVec.allOnes 8) (BitVec.allOnes 4) (BitVec.allOnes 4) 0#16 0#16)
  | .sinh _ _ _ | .cosh _ _ _ | .tanh _ _ _ =>
    (mkWord (code i) 0#4 0#4 0#16 0#16, mkWord (BitVec.allOnes 8) 0#4 0#4 (BitVec.allOnes 16) 0#16)
  | .clrerr | .rderr =>
    (mkWord (code i) 0#4 0#4 0#16 0#16,
      mkWord (BitVec.allOnes 8) (BitVec.allOnes 4) (BitVec.allOnes 4) (BitVec.allOnes 16) (BitVec.allOnes 16))

/-- `c` matches the row of `i` (R63). -/
def Instr.Matches (i : Instr) (c : CommandWord) : Prop := c &&& i.row.2 = i.row.1

/-- The column "fields that must be zero" of R62. -/
def Instr.ZeroFields (c : CommandWord) : Instr → Prop
  | .sat _ => c.extractLsb' 32 8 = 0#8
  | .rshr _ _ => c.extractLsb' 37 3 = 0#3
  | .sshift _ _ => c.extractLsb' 38 2 = 0#2
  | .sqrt _ _ | .cbrt _ _ | .atan _ _ => fyBits c = 0#4 ∧ bBits c = 0#16
  | .sincos _ | .asin _ | .acos _ => fyBits c = 0#4 ∧ fxBits c = 0#4 ∧ bBits c = 0#16
  | .tan _ _ => fxBits c = 0#4 ∧ bBits c = 0#16
  | .atan2 _ _ => fyBits c = 0#4 ∧ fxBits c = 0#4
  | .sinh _ _ _ | .cosh _ _ _ | .tanh _ _ _ => bBits c = 0#16
  | .clrerr | .rderr => c.extractLsb' 0 40 = 0#40

/-- The operation of `i` with the operand values that the fields of `c` hold (R61, R62). -/
def Instr.readFrom (c : CommandWord) : Instr → Instr
  | .sat _ => .sat (valW c)
  | .rshr _ _ => .rshr (valW c) (valN5 c)
  | .sshift _ _ => .sshift (valW c) (valN6 c)
  | .sqrt _ _ => .sqrt (valA c) (valFX c)
  | .cbrt _ _ => .cbrt (valA c) (valFX c)
  | .sincos _ => .sincos (valA c)
  | .tan _ _ => .tan (valA c) (valFY c)
  | .atan2 _ _ => .atan2 (valA c) (valB c)
  | .atan _ _ => .atan (valA c) (valFX c)
  | .asin _ => .asin (valA c)
  | .acos _ => .acos (valA c)
  | .sinh _ _ _ => .sinh (valFY c) (valA c) (valFX c)
  | .cosh _ _ _ => .cosh (valFY c) (valA c) (valFX c)
  | .tanh _ _ _ => .tanh (valFY c) (valA c) (valFX c)
  | .clrerr => .clrerr
  | .rderr => .rderr

theorem row_mem_rows (i : Instr) : i.row ∈ Claim.rows := by
  cases i <;> simp only [Instr.row, code] <;> decide

/-! ### Fields and the values they hold -/

theorem toInt_ofInt_of_narrowOk {v : Int} (h : narrowOk v = true) : (BitVec.ofInt 16 v).toInt = v := by
  simp only [narrowOk, Bool.and_eq_true, decide_eq_true_eq] at h
  exact BitVec.toInt_ofInt_eq_self (by decide) h.1 (by omega)

theorem toInt_ofInt_of_wideOk {v : Int} (h : wideOk v = true) : (BitVec.ofInt 32 v).toInt = v := by
  simp only [wideOk, Bool.and_eq_true, decide_eq_true_eq] at h
  exact BitVec.toInt_ofInt_eq_self (by decide) h.1 (by omega)

theorem toInt_ofInt_of_shift6Ok {n : Int} (h : shift6Ok n = true) : (BitVec.ofInt 6 n).toInt = n := by
  simp only [shift6Ok, Bool.and_eq_true, decide_eq_true_eq] at h
  exact BitVec.toInt_ofInt_eq_self (by decide) h.1 (by omega)

theorem toNat_ofNat_of_fracOk {f : Nat} (h : fracOk f = true) : (BitVec.ofNat 4 f).toNat = f :=
  (BitVec.toNat_ofNat _ _).trans (Nat.mod_eq_of_lt (Nat.lt_succ_of_le (of_decide_eq_true h)))

theorem toNat_ofNat_of_shift5Ok {n : Nat} (h : shift5Ok n = true) : (BitVec.ofNat 5 n).toNat = n :=
  (BitVec.toNat_ofNat _ _).trans (Nat.mod_eq_of_lt (Nat.lt_succ_of_le (of_decide_eq_true h)))

@[simp] theorem narrowOk_toInt (x : BitVec 16) : narrowOk x.toInt = true := by
  have := x.le_toInt; have := x.toInt_lt
  simp only [narrowOk, Bool.and_eq_true, decide_eq_true_eq]; omega

@[simp] theorem wideOk_toInt (x : BitVec 32) : wideOk x.toInt = true := by
  have := x.le_toInt; have := x.toInt_lt
  simp only [wideOk, Bool.and_eq_true, decide_eq_true_eq]; omega

@[simp] theorem shift6Ok_toInt (x : BitVec 6) : shift6Ok x.toInt = true := by
  have := x.le_toInt; have := x.toInt_lt
  simp only [shift6Ok, Bool.and_eq_true, decide_eq_true_eq]; omega

@[simp] theorem fracOk_toNat (x : BitVec 4) : fracOk x.toNat = true := decide_eq_true (Nat.le_of_lt_succ x.isLt)

@[simp] theorem shift5Ok_toNat (x : BitVec 5) : shift5Ok x.toNat = true := decide_eq_true (Nat.le_of_lt_succ x.isLt)

@[simp] theorem n5Bits_mkWide (o : BitVec 8) (p : BitVec 3) (n : BitVec 5) (w : BitVec 32) :
    n5Bits (mkWide o (p ++ n) w) = n :=
  (hiBits_mkWide o (p ++ n) w 0 5 (by decide)).trans BitVec.extractLsb'_append_eq_right

@[simp] theorem n6Bits_mkWide (o : BitVec 8) (p : BitVec 2) (n : BitVec 6) (w : BitVec 32) :
    n6Bits (mkWide o (p ++ n) w) = n :=
  (hiBits_mkWide o (p ++ n) w 0 6 (by decide)).trans BitVec.extractLsb'_append_eq_right

/-- The bits 39..32 of a word are the part above `N5`, and `N5`. -/
theorem append_n5Bits (c : CommandWord) : c.extractLsb' 37 3 ++ n5Bits c = c.extractLsb' 32 8 :=
  BitVec.extractLsb'_append_extractLsb'_eq_extractLsb' rfl

theorem append_n6Bits (c : CommandWord) : c.extractLsb' 38 2 ++ n6Bits c = c.extractLsb' 32 8 :=
  BitVec.extractLsb'_append_extractLsb'_eq_extractLsb' rfl

theorem opcBits_append (c : CommandWord) : opcBits c ++ c.extractLsb' 0 40 = c :=
  (BitVec.extractLsb'_append_extractLsb'_eq_extractLsb' rfl).trans BitVec.extractLsb'_eq_self

/-! ### What the decoder answers -/

theorem ifZero_eq_operation {z : Bool} {i j : Instr} : ifZero z i = .operation j ↔ z = true ∧ i = j := by
  cases z <;> simp [ifZero]

section
variable {c : CommandWord} {i : Instr}

theorem decode_of_fields (ho : opcBits c = code i) (hz : i.ZeroFields c) :
    decode c = .operation (i.readFrom c) := by
  cases i <;> simp only [Instr.ZeroFields] at hz <;> simp [decode, ho, hz, code, Instr.readFrom, ifZero]

theorem fields_of_decode (h : decode c = .operation i) :
    opcBits c = code i ∧ i.ZeroFields c ∧ i.readFrom c = i := by
  unfold decode at h
  split at h
  case h_17 => cases h
  all_goals
    rename_i heq
    obtain ⟨hz, rfl⟩ := ifZero_eq_operation.mp h
    exact ⟨BitVec.eq_of_toNat_eq heq, by simpa [Instr.ZeroFields, and_assoc] using hz, rfl⟩

/-! ### What the encoder writes -/

theorem wf_readFrom (c : CommandWord) (i : Instr) : (i.readFrom c).wf = true := by
  cases i <;> simp [Instr.readFrom, Instr.wf, valA, valB, valW, valFX, valFY, valN5, valN6]

/-- Reading the operands from the fields the encoder wrote gives them back. -/
theorem readFrom_encode (h : i.wf = true) : i.readFrom (encode i) = i := by
  cases i <;> simp only [Instr.wf, Bool.and_eq_true] at h <;>
    simp [h, Instr.readFrom, encode, valA, valB, valW, valFX, valFY, valN5, valN6, toInt_ofInt_of_narrowOk,
      toInt_ofInt_of_wideOk, toInt_ofInt_of_shift6Ok, toNat_ofNat_of_fracOk, toNat_ofNat_of_shift5Ok,
      -BitVec.toInt_ofInt, -BitVec.toNat_ofNat]

/-- A word whose must-be-zero fields are zero is the encoding of what its fields hold. -/
theorem encode_readFrom (ho : opcBits c = code i) (hz : i.ZeroFields c) : encode (i.readFrom c) = c := by
  cases i with
  | sat w =>
    have hc := mkWide_fields c
    rw [ho, show c.extractLsb' 32 8 = 0#8 from hz] at hc
    simpa [encode, code, Instr.readFrom, valW] using hc
  | rshr w n =>
    have hc := mkWide_fields c
    rw [ho, ← append_n5Bits, show c.extractLsb' 37 3 = 0#3 from hz] at hc
    simpa [encode, code, Instr.readFrom, valW, valN5] using hc
  | sshift w n =>
    have hc := mkWide_fields c
    rw [ho, ← append_n6Bits, show c.extractLsb' 38 2 = 0#2 from hz] at hc
    simpa [encode, code, Instr.readFrom, valW, valN6] using hc
  | clrerr | rderr =>
    have hc := opcBits_append c
    rw [ho, show c.extractLsb' 0 40 = 0#40 from hz] at hc
    exact hc
  | _ =>
    have hc := mkWord_fields c
    simp only [Instr.ZeroFields] at hz
    simpa [ho, hz, encode, code, Instr.readFrom, valA, valB, valFX, valFY] using hc

/-! ### Match and mask -/

theorem zero_append_and_mask (p : Nat) {n : Nat} (x : BitVec n) :
    (0#p ++ x) &&& (BitVec.allOnes p ++ 0#n) = 0#p ++ 0#n := by
  rw [append_and, BitVec.and_allOnes, BitVec.and_zero]

theorem encode_matches (i : Instr) : i.Matches (encode i) := by
  cases i with
  | rshr | sshift =>
    exact (mkWide_and _ _ _ _ _ _).trans
      (congr (congrArg₂ mkWide BitVec.and_allOnes (zero_append_and_mask _ _)) BitVec.and_zero)
  | _ => simp [Instr.Matches, Instr.row, encode, code, mkWord_and, mkWide_and]

theorem fields_of_matches (h : i.Matches c) : opcBits c = code i ∧ i.ZeroFields c := by
  cases i <;> simp only [Instr.Matches, Instr.row, code, Instr.ZeroFields] at h ⊢
  case sat | rshr | sshift => exact ⟨field_of_masked 40 8 h rfl, field_of_masked _ _ h rfl⟩
  case sqrt | cbrt | atan =>
    exact ⟨field_of_masked 40 8 h rfl, field_of_masked 36 4 h rfl, field_of_masked 16 16 h rfl⟩
  case sincos | asin | acos =>
    exact ⟨field_of_masked 40 8 h rfl, field_of_masked 36 4 h rfl, field_of_masked 32 4 h rfl,
      field_of_masked 16 16 h rfl⟩
  case tan => exact ⟨field_of_masked 40 8 h rfl, field_of_masked 32 4 h rfl, field_of_masked 16 16 h rfl⟩
  case atan2 => exact ⟨field_of_masked 40 8 h rfl, field_of_masked 36 4 h rfl, field_of_masked 32 4 h rfl⟩
  case sinh | cosh | tanh => exact ⟨field_of_masked 40 8 h rfl, field_of_masked 16 16 h rfl⟩
  case clrerr | rderr => exact ⟨field_of_masked 40 8 h rfl, field_of_masked 0 40 h rfl⟩

theorem decode_of_matches (h : i.Matches c) : decode c = .operation (i.readFrom c) := by
  obtain ⟨ho, hz⟩ := fields_of_matches h
  exact decode_of_fields ho hz

theorem encode_of_decode (h : decode c = .operation i) : encode i = c := by
  obtain ⟨ho, hz, hi⟩ := fields_of_decode h
  rw [← hi, encode_readFrom ho hz]

/-- The decoder by match and mask (R63): the row selects the operation, the fields give its operands. -/
theorem decode_eq_operation_iff : decode c = .operation i ↔ i.Matches c ∧ i.readFrom c = i := by
  constructor
  · intro h
    obtain ⟨_, _, hi⟩ := fields_of_decode h
    exact ⟨encode_of_decode h ▸ encode_matches i, hi⟩
  · rintro ⟨hm, hi⟩
    rw [decode_of_matches hm, hi]

/-- A word that matches no row of R63 is illegal (R72). -/
theorem illegal_of_matches_no_row (h : ∀ row ∈ Claim.rows, c &&& row.2 ≠ row.1) :
    ∃ why, decode c = .illegal why := by
  cases hd : decode c with
  | illegal why => exact ⟨why, rfl⟩
  | operation i =>
    obtain ⟨hm, _⟩ := decode_eq_operation_iff.mp hd
    exact absurd hm (h _ (row_mem_rows i))

end

/-! ### The statements -/

/-- Settles O3: the encoding of `i` matches the row of `i`, and its fields hold the operands of `i`. -/
theorem decodeOfEncode : Obligations.DecodeOfEncode := by
  unfold Obligations.DecodeOfEncode
  exact fun i hi => decode_eq_operation_iff.mpr ⟨encode_matches i, readFrom_encode hi⟩

/-- Settles O4: the operands are values of fields, and the fields with the zeros of the row make up the word. -/
theorem encodeOfDecode : Obligations.EncodeOfDecode := by
  unfold Obligations.EncodeOfDecode
  intro c i h
  obtain ⟨_, hi⟩ := decode_eq_operation_iff.mp h
  exact ⟨hi ▸ wf_readFrom c i, encode_of_decode h⟩

/-- Settles O2: each clause is `decode_of_matches` at an instruction of its row, whose operands play no part. -/
theorem decodeFollowsMatchAndMask : Obligations.DecodeFollowsMatchAndMask := by
  unfold Obligations.DecodeFollowsMatchAndMask
  intro c
  refine ⟨decode_of_matches (i := .sat 0), decode_of_matches (i := .rshr 0 0), decode_of_matches (i := .sshift 0 0),
    decode_of_matches (i := .sqrt 0 0), decode_of_matches (i := .cbrt 0 0), decode_of_matches (i := .sincos 0),
    decode_of_matches (i := .tan 0 0), decode_of_matches (i := .atan2 0 0), decode_of_matches (i := .atan 0 0),
    decode_of_matches (i := .asin 0), decode_of_matches (i := .acos 0), decode_of_matches (i := .sinh 0 0 0),
    decode_of_matches (i := .cosh 0 0 0), decode_of_matches (i := .tanh 0 0 0), ?_, ?_, illegal_of_matches_no_row⟩
  · rintro rfl
    exact decode_of_matches (i := .clrerr) rfl
  · rintro rfl
    exact decode_of_matches (i := .rderr) rfl

/-- Settles O6: such a word is illegal, and the port answers an illegal word and does nothing else. -/
theorem illegalWordChangesNothing : Obligations.IllegalWordChangesNothing := by
  unfold Obligations.IllegalWordChangesNothing
  intro s c h
  obtain ⟨why, hd⟩ := illegal_of_matches_no_row h
  exact Machine.serve_issue_illegal s hd

/-- Settles O1: nine fixed words, decoded. -/
theorem printedWordsDecode : Obligations.PrintedWordsDecode := by
  unfold Obligations.PrintedWordsDecode
  decide

end Sys2Proof
end

section
/-! The saturation and shift primitives (40_primitives.md R100 to R102). `RSHR` and `SSHIFT` deliver the pattern of one
wide value across the two latches; what is left is that a rounded right shift stays in 32 bits, and that a left shift
which wraps is a left shift of the pattern. -/

namespace Sys2Proof.Machine

open Sys2Proof.Claim

/-- Settles O22: `sat16` is the clamp, and `SAT` delivers it with the working registers as they are. -/
theorem satClamps : Obligations.SatClamps := by
  unfold Obligations.SatClamps
  intro w s
  rw [exec_sat, sat16_eq_clamp]
  rfl

/-- The two latches after a wide result hold its 32-bit pattern, the upper half in `R1` (R101). -/
theorem deliverPair_r1_append_r0 (s : State) (v : Int) :
    (s.deliverPair v).r1 ++ (s.deliverPair v).r0 = enc32 v :=
  (BitVec.extractLsb'_append_extractLsb'_eq_extractLsb' rfl).trans BitVec.extractLsb'_eq_self

/-- `rsr` in the words of the statements (R92). -/
theorem nearest_rsr (v : Int) (n : Nat) : Nearest v (2 ^ n) (rsr v n) := by
  have hp : (0 : Int) < 2 ^ n := by positivity
  obtain ⟨hlo, hhi, hnonneg, hnonpos⟩ := rsr_nearest v n
  rw [Nearest, abs_of_pos hp]
  exact ⟨hlo, hhi, fun h => hnonneg (nonneg_of_mul_nonneg_left h hp), fun h => hnonpos (nonpos_of_mul_nonpos_left h hp)⟩

/-- A rounded right shift does not increase the magnitude. -/
theorem abs_rsr_le (v : Int) (n : Nat) : |rsr v n| ≤ |v| := by
  obtain ⟨_, hhi, _, _⟩ := rsr_nearest v n
  have hp : (1 : Int) ≤ 2 ^ n := one_le_pow₀ (by decide)
  have hv : 0 ≤ |v| := abs_nonneg v
  by_contra! h
  have hstep : (|v| + 1) * 2 ^ n ≤ |rsr v n| * 2 ^ n := mul_le_mul_of_nonneg_right h (by omega)
  have hmono : |v| * 1 ≤ |v| * 2 ^ n := mul_le_mul_of_nonneg_left hp hv
  linarith

/-- A rounded right shift of a 32-bit value fits 32 bits: it keeps the sign and does not increase the magnitude. -/
theorem wideOk_rsr {v : Int} (h : wideOk v = true) (n : Nat) : wideOk (rsr v n) = true := by
  obtain ⟨_, _, hnonneg, hnonpos⟩ := rsr_nearest v n
  have hle := abs_rsr_le v n
  simp only [wideOk, Bool.and_eq_true, decide_eq_true_eq] at h ⊢
  rcases le_total 0 v with hv | hv
  · have hr := hnonneg hv
    rw [abs_of_nonneg hv, abs_of_nonneg hr] at hle
    omega
  · have hr := hnonpos hv
    rw [abs_of_nonpos hv, abs_of_nonpos hr] at hle
    omega

/-- Settles O23: `rsr` is the nearest quotient, and it fits the pair of latches. -/
theorem rshrRoundsToNearest : Obligations.RshrRoundsToNearest := by
  unfold Obligations.RshrRoundsToNearest
  intro w n s h
  obtain ⟨hw, _⟩ := Bool.and_eq_true_iff.mp h
  refine ⟨_, rsr w n, exec_rshr w n s, nearest_rsr w n, ?_, twoResults_deliverPair s _, rfl⟩
  rw [deliverPair_r1_append_r0]
  exact toInt_ofInt_of_wideOk (wideOk_rsr hw n)

/-! ### The three directions of `sshift` (R93) -/

theorem sshift_of_pos {n : Int} (h : 0 < n) (v : Int) : sshift v n = rsr v n.toNat := if_pos h

@[simp] theorem sshift_zero (v : Int) : sshift v 0 = v := rfl

theorem sshift_of_neg {n : Int} (h : n < 0) (v : Int) : sshift v n = wrap32 (shl v (-n).toNat) :=
  (if_neg (by omega)).trans (if_neg (by omega))

/-- Wrapping to 32 bits does not change the stored pattern (00_scope.md R9, R10). -/
@[simp] theorem enc32_wrap32 (v : Int) : enc32 (wrap32 v) = enc32 v := by
  apply BitVec.eq_of_toInt_eq
  rw [enc32, enc32, BitVec.toInt_ofInt, BitVec.toInt_ofInt]
  exact Int.bmod_bmod

/-- The pattern of an exact left shift is the pattern shifted left: the bits that leave it are lost. -/
theorem enc32_shl (v : Int) (k : Nat) : enc32 (shl v k) = enc32 v <<< k := by
  have hpow : BitVec.ofInt 32 (2 ^ k) = BitVec.twoPow 32 k := by
    apply BitVec.eq_of_toNat_eq
    rw [BitVec.toNat_twoPow, ← BitVec.toNat_ofNat, ← BitVec.ofInt_natCast, Nat.cast_pow, Nat.cast_ofNat]
  rw [enc32, enc32, shl, BitVec.ofInt_mul, hpow, BitVec.shiftLeft_eq_mul_twoPow]

/-- Settles O24: one lemma per direction of the amount. -/
theorem sshiftBothDirections : Obligations.SshiftBothDirections := by
  unfold Obligations.SshiftBothDirections
  intro w n s h
  obtain ⟨hw, _⟩ := Bool.and_eq_true_iff.mp h
  refine ⟨fun hpos => ?_, _, exec_sshift w n s, twoResults_deliverPair s _, rfl, ?_, fun hneg => ?_⟩
  · rw [exec_sshift, exec_rshr, sshift_of_pos hpos]
  · rintro rfl
    rw [deliverPair_r1_append_r0, sshift_zero]
    exact toInt_ofInt_of_wideOk hw
  · rw [deliverPair_r1_append_r0, sshift_of_neg hneg, enc32_wrap32, enc32_shl, enc32]

end Sys2Proof.Machine
end

section
/-! The root solvers (41_root_solvers.md R120 to R124). `SQRT` is the floor root of Laws/Roots.lean on a radicand below
2^30, so the clamp of R121 never acts; `CBRT` is the Newton step of R123 iterated from 1.0, where no iterate is zero. -/

namespace Sys2Proof.Machine

open Sys2Proof.Claim

/-- `rdiv` in the words of the statements (R96). -/
theorem nearest_rdiv (num : Int) {den : Int} (hd : den ≠ 0) : Nearest num den (rdiv num den) :=
  rdiv_nearest num den hd

/-! ### Square root -/

section
variable {x : Int} {f : Nat}

theorem sqrtSignals_of_neg (hx : x < 0) : sqrtSignals x = true := decide_eq_true hx

theorem sqrtSignals_of_nonneg (hx : 0 ≤ x) : sqrtSignals x = false := decide_eq_false (not_lt.mpr hx)

theorem sqrtCore_of_neg (hx : x < 0) (f : Nat) : sqrtCore x f = 0 := if_pos hx

@[simp] theorem sqrtCore_zero (f : Nat) : sqrtCore 0 f = 0 := rfl

theorem sqrtCore_of_pos (hx : 0 < x) (f : Nat) : sqrtCore x f = min (isqrt (sqrtRadicand x f) : Int) 32767 := by
  rw [sqrtCore, if_neg (by omega), if_neg (by omega)]
  dsimp only
  split <;> omega

theorem sqrtRadicand_cast (hx : 0 ≤ x) (f : Nat) : (sqrtRadicand x f : Int) = x * 2 ^ f :=
  Int.toNat_of_nonneg (mul_nonneg hx (by positivity))

/-- The radicand of a non-negative operand is below 2^15 * 2^15. -/
theorem sqrtRadicand_lt (h : (Instr.sqrt x f).wf = true) (hx : 0 ≤ x) : sqrtRadicand x f < 32768 * 32768 := by
  simp only [Instr.wf, narrowOk, fracOk, Bool.and_eq_true, decide_eq_true_eq] at h
  obtain ⟨⟨_, hx'⟩, hf⟩ := h
  have hpow : (2 : Int) ^ f ≤ 2 ^ 15 := pow_le_pow_right₀ (by decide) hf
  have hr := sqrtRadicand_cast hx f
  have hmul : x * 2 ^ f ≤ 32767 * 2 ^ 15 := mul_le_mul hx' hpow (by positivity) (by decide)
  omega

/-- The value `SQRT` delivers is the floor root, and it fits the latch unclamped (R122). -/
theorem sqrtCore_floor (h : (Instr.sqrt x f).wf = true) (hx : 0 ≤ x) :
    ∃ r : Nat, sqrtCore x f = r ∧ r ≤ 32767 ∧
      (r * r : Int) ≤ x * 2 ^ f ∧ x * 2 ^ f < (r + 1) * (r + 1) := by
  rcases hx.eq_or_lt with rfl | hpos
  · exact ⟨0, by simp⟩
  · have hcast := sqrtRadicand_cast hx f
    have hlt := sqrtRadicand_lt h hx
    have hrad : 0 < x * 2 ^ f := by positivity
    obtain ⟨hlo, hhi⟩ := isqrt_floor (sqrtRadicand x f) (by omega) (by omega)
    have hfit : isqrt (sqrtRadicand x f) < 32768 := Nat.mul_self_lt_mul_self_iff.mp (hlo.trans_lt hlt)
    refine ⟨isqrt (sqrtRadicand x f), ?_, by omega, ?_, ?_⟩
    · rw [sqrtCore_of_pos hpos]; omega
    · rw [← hcast]; exact_mod_cast hlo
    · rw [← hcast]; exact_mod_cast hhi

end

/-- Settles O25: by the sign of the operand, which decides both the signal and the value. -/
theorem sqrtIsFloorRoot : Obligations.SqrtIsFloorRoot := by
  unfold Obligations.SqrtIsFloorRoot
  intro x f s h
  refine ⟨_, exec_sqrt x f s, fun hx => ?_, fun hx => ?_⟩
  · rw [sqrtSignals_of_neg hx, sqrtCore_of_neg hx]
    exact ⟨rfl, oneResult_deliver _ _ _⟩
  · obtain ⟨r, hr, hle, hfloor⟩ := sqrtCore_floor h hx
    rw [sqrtSignals_of_nonneg hx, hr]
    exact ⟨oneResult_deliver _ _ _, r, enc16_toInt (by omega) (by omega), hfloor⟩

/-! ### Cube root -/

@[simp] theorem cbrtCore_zero (f : Nat) : cbrtCore 0 f = 0 := rfl

theorem cbrtCore_of_pos {a : Int} (ha : 0 < a) (f : Nat) : cbrtCore a f = clamp16 (cbrtRun a f) :=
  (if_neg ha.ne').trans (sat16_eq_clamp _)

/-- A Newton step from a non-zero iterate is two nearest quotients (R123). -/
theorem cbrtStep_nearest (a : Int) (f : Nat) {x : Int} (hx : x ≠ 0) :
    ∃ q, Nearest (a * 2 ^ (2 * f)) (x * x) q ∧ Nearest (2 * x + q) 3 (cbrtStep a f x) :=
  ⟨_, nearest_rdiv _ (mul_ne_zero hx hx), nearest_rdiv _ (by decide)⟩

/-- The iterate after `k` Newton steps from 1.0. -/
def cbrtIterateFromOne (a : Int) (f k : Nat) : Int := cbrtIterate a f k (shl 1 f)

@[simp] theorem cbrtIterateFromOne_zero (a : Int) (f : Nat) : cbrtIterateFromOne a f 0 = 2 ^ f := one_mul _

theorem cbrtIterateFromOne_succ (a : Int) (f k : Nat) :
    cbrtIterateFromOne a f (k + 1) = cbrtStep a f (cbrtIterateFromOne a f k) := cbrtIterate_succ a f k _

theorem cbrtIterateFromOne_pos {a : Int} (f k : Nat) (ha : 0 ≤ a) : 1 ≤ cbrtIterateFromOne a f k :=
  cbrtIterate_pos f k ha (by rw [shl, one_mul]; exact one_le_pow₀ (by decide))

theorem cbrtRun_eq (a : Int) (f : Nat) : cbrtRun a f = cbrtIterateFromOne a f 17 := rfl

/-- Settles O26: by the sign of the operand; for a positive one every step divides by a positive iterate's square. -/
theorem cbrtIsSeventeenNewtonSteps : Obligations.CbrtIsSeventeenNewtonSteps := by
  unfold Obligations.CbrtIsSeventeenNewtonSteps
  intro a f s _
  rcases lt_or_ge a 0 with ha | ha
  · exact ⟨_, exec_cbrt_of_neg ha f s, fun _ => oneResult_deliver _ _ _, fun h => absurd ha (not_lt.mpr h),
      fun h => absurd h ha.ne, fun h => absurd h ha.asymm⟩
  · refine ⟨_, exec_cbrt_of_nonneg ha f s, fun h => absurd h (not_lt.mpr ha), fun _ => oneResult_deliver _ _ _,
      ?_, fun hpos => ⟨cbrtIterateFromOne a f, cbrtIterateFromOne_zero a f, fun k _ => ?_, ?_⟩⟩
    · rintro rfl
      rw [State.deliver_r0, cbrtCore_zero]
      rfl
    · have hk := cbrtIterateFromOne_pos f k ha
      rw [cbrtIterateFromOne_succ]
      exact ⟨hk, cbrtStep_nearest a f (by omega)⟩
    · rw [State.deliver_r0, cbrtCore_of_pos hpos, cbrtRun_eq]
      rfl

end Sys2Proof.Machine
end

section
/-! Rotation mode (42_circular_cordic.md R140 to R147). The loop is the sequence of the registers before each
micro-rotation; `SINCOS` runs it on the mirrored angle, and `TAN` divides what `SINCOS` delivers, which fits the latches
because the last micro-rotation saturates. -/

namespace Sys2Proof.Machine

open Sys2Proof.Claim

theorem sat16_eq_clamp16 (v : Int) : sat16 v = clamp16 v := sat16_eq_clamp v

@[simp] theorem narrowOk_sat16 (v : Int) : narrowOk (sat16 v) = true := by
  simpa [narrowOk] using sat16_bounds v

/-! ### A circular loop as a sequence of register contents -/

/-- The registers before the `k`-th circular micro-rotation of a loop with step `f` that starts from `v`. -/
def circAt (rom : Rom) (f : Cordic → Nat × Int → Cordic) (v : Cordic) (k : Nat) : Cordic :=
  (rom.circSteps.take k).foldl f v

section
variable (rom : Rom) (f : Cordic → Nat × Int → Cordic) (v : Cordic)

@[simp] theorem circAt_zero : circAt rom f v 0 = v := rfl

theorem circAt_succ (i : Fin 14) :
    circAt rom f v (i + 1) = f (circAt rom f v i) (i, rom.atanPiQ15.get i) := by
  have hi : (i : Nat) < rom.circSteps.length := (circSteps_length rom).symm ▸ i.isLt
  rw [circAt, foldl_take_succ f _ v i hi, circSteps_get]
  rfl

theorem circAt_fourteen : circAt rom f v 14 = rom.circSteps.foldl f v := foldl_take_length f rom.circSteps v

end

/-! ### The rotation loop (R142, R143) -/

section
variable {v : Cordic}

theorem rotStep_of_nonneg (h : 0 ≤ v.z) (i : Nat) (e : Int) :
    rotStep v (i, e) = ⟨clamp16 (v.x - v.y / 2 ^ i), clamp16 (v.y + v.x / 2 ^ i), v.z - e, i⟩ := by
  rw [rotStep, if_pos h, sat16_eq_clamp16, sat16_eq_clamp16]
  rfl

theorem rotStep_of_neg (h : v.z < 0) (i : Nat) (e : Int) :
    rotStep v (i, e) = ⟨clamp16 (v.x + v.y / 2 ^ i), clamp16 (v.y - v.x / 2 ^ i), v.z + e, i⟩ := by
  rw [rotStep, if_neg (not_le.mpr h), sat16_eq_clamp16, sat16_eq_clamp16]
  rfl

/-- Every micro-rotation saturates the vector. -/
theorem narrowOk_rotStep (v : Cordic) (e : Nat × Int) :
    narrowOk (rotStep v e).x = true ∧ narrowOk (rotStep v e).y = true := by
  unfold rotStep
  split <;> exact ⟨narrowOk_sat16 _, narrowOk_sat16 _⟩

end

section
variable (rom : Rom) (z : Int)

/-- The registers before the `k`-th rotation toward a zero residual. -/
def rotAt (k : Nat) : Cordic := circAt rom rotStep ⟨rom.kCirc, 0, z, 0⟩ k

theorem rotAt_succ (i : Fin 14) : rotAt rom z (i + 1) = rotStep (rotAt rom z i) (i, rom.atanPiQ15.get i) :=
  circAt_succ rom rotStep _ i

theorem rotRun_eq_rotAt : rotRun rom z = rotAt rom z 14 := (circAt_fourteen rom rotStep _).symm

theorem rotRun_rotAt :
    RotRun rom z (fun k => (rotAt rom z k).x) (fun k => (rotAt rom z k).y) (fun k => (rotAt rom z k).z) := by
  refine ⟨rfl, rfl, rfl, fun i => ⟨fun h => ?_, fun h => ?_⟩⟩
  · simp only [rotAt_succ, rotStep_of_nonneg h, and_self]
  · simp only [rotAt_succ, rotStep_of_neg h, and_self]

/-- The result of the loop fits the latches, whatever the ROMs hold. -/
theorem narrowOk_rotRun : narrowOk (rotRun rom z).x = true ∧ narrowOk (rotRun rom z).y = true := by
  rw [rotRun_eq_rotAt, show (14 : Nat) = (13 : Fin 14) + 1 from rfl, rotAt_succ]
  exact narrowOk_rotStep _ _

end

/-! ### Mirroring and the cosine sign (R141, R144) -/

/-- `a` is beyond +pi/2 or -pi/2 and `m` is its mirror image. -/
def Mirrored (a m : Int) : Prop := (16384 < a ∧ m = 32768 - a) ∨ (a < -16384 ∧ m = -32768 - a)

theorem mirror_of_mirrored {a m : Int} (h : Mirrored a m) : mirror a = (m, true) := by
  obtain ⟨ha, rfl⟩ | ⟨ha, rfl⟩ := h
  · exact if_pos ha
  · exact (if_neg (by omega)).trans (if_pos ha)

theorem mirror_of_within {a : Int} (h₁ : -16384 ≤ a) (h₂ : a ≤ 16384) : mirror a = (a, false) :=
  (if_neg (not_lt.mpr h₂)).trans (if_neg (not_lt.mpr h₁))

theorem mirror_eq (a : Int) :
    mirror a = (if 16384 < a then 32768 - a else if a < -16384 then -32768 - a else a,
      decide (16384 < a ∨ a < -16384)) := by
  rcases lt_or_ge 16384 a with ha | ha
  · simp [mirror, ha]
  · rcases lt_or_ge a (-16384) with hb | hb
    · simp [mirror, ha.not_gt, hb]
    · simp [mirror, ha.not_gt, hb.not_gt]

section
variable (rom : Rom)

theorem sinCore_eq (a : Int) : sinCore rom a = (rotRun rom (mirror a).1).y := by
  rw [sinCore, sincosRun]
  split <;> rfl

theorem cosCore_eq (a : Int) :
    cosCore rom a =
      if (mirror a).2 = true then clamp16 (-(rotRun rom (mirror a).1).x) else (rotRun rom (mirror a).1).x := by
  rw [cosCore, sincosRun, ← sat16_eq_clamp16]
  split <;> rfl

theorem narrowOk_sinCore (a : Int) : narrowOk (sinCore rom a) = true := by
  rw [sinCore_eq]
  exact (narrowOk_rotRun rom _).2

theorem narrowOk_cosCore (a : Int) : narrowOk (cosCore rom a) = true := by
  rw [cosCore_eq]
  split
  · rw [← sat16_eq_clamp16]
    exact narrowOk_sat16 _
  · exact (narrowOk_rotRun rom _).1

/-- The latch `R0` holds the sine of `SINCOS` itself: nothing is lost in 16 bits. -/
theorem enc16_sinCore_toInt (a : Int) : (enc16 (sinCore rom a)).toInt = sinCore rom a :=
  toInt_ofInt_of_narrowOk (narrowOk_sinCore rom a)

/-- And `R1` the cosine. -/
theorem enc16_cosCore_toInt (a : Int) : (enc16 (cosCore rom a)).toInt = cosCore rom a :=
  toInt_ofInt_of_narrowOk (narrowOk_cosCore rom a)

end

/-- Settles O27: `rotRun_rotAt` from the mirrored angle, and the cosine sign of R144. -/
theorem sincosIsFourteenRotations : Obligations.SincosIsFourteenRotations := by
  unfold Obligations.SincosIsFourteenRotations
  intro a s _
  refine ⟨_, _, _, _, exec_sincos a s, rotRun_rotAt s.rom _, ?_, ?_, twoResults_deliver_setR1 s _ _ _⟩
  · rw [State.setR1_r0, State.deliver_r0, sinCore_eq, mirror_eq, rotRun_eq_rotAt]
    rfl
  · rw [State.setR1_r1, cosCore_eq, mirror_eq, rotRun_eq_rotAt]
    simp only [decide_eq_true_eq]
    rfl

/-- The mirror image of an angle is not mirrored again. -/
theorem mirror_of_mirror_image {a m : Int} (hwf : (Instr.sincos a).wf = true) (h : Mirrored a m) :
    mirror m = (m, false) := by
  simp only [Instr.wf, narrowOk, Bool.and_eq_true, decide_eq_true_eq] at hwf
  obtain ⟨ha, rfl⟩ | ⟨ha, rfl⟩ := h
  · exact mirror_of_within (by omega) (by omega)
  · exact mirror_of_within (by omega) (by omega)

/-- Settles O28: both angles run the same loop; only the cosine sign differs. -/
theorem sincosMirrorIdentity : Obligations.SincosMirrorIdentity := by
  unfold Obligations.SincosMirrorIdentity
  intro a m s hwf h
  have ha : mirror a = (m, true) := mirror_of_mirrored h
  have hm : mirror m = (m, false) := mirror_of_mirror_image hwf h
  refine ⟨_, _, exec_sincos a s, exec_sincos m s, ?_, ?_⟩
  · simp [sinCore_eq, ha, hm]
  · rw [State.setR1_r1, State.setR1_r1, enc16_cosCore_toInt]
    simp [cosCore_eq, ha, hm, enc16, pat16]

/-! ### The quotient of `TAN` (R147) -/

/-- `qdiv15` in the words of the statements (40_primitives.md R96). -/
theorem nearest_qdiv15 (a : Int) {b : Int} (hb : b ≠ 0) : Nearest (a * 32768) b (qdiv15 a b) := nearest_rdiv _ hb

/-- The shift primitive by a natural amount is the rounded right shift (R93). -/
theorem sshift_natCast (v : Int) (n : Nat) : sshift v n = rsr v n := by
  rcases Nat.eq_zero_or_pos n with rfl | hn
  · rfl
  · rw [sshift_of_pos (by exact_mod_cast hn), Int.toNat_natCast]

/-- The rescale to format `f` in the words of the statements (43_hyperbolic_cordic.md R188). -/
theorem rescaled_fromq15 (v : Int) {f : Nat} (hf : f ≤ 15) : Rescaled v f (enc16 (fromq15 v f)) := by
  refine ⟨rsr v (15 - f), nearest_rsr v (15 - f), ?_⟩
  rw [fromq15, show (15 - f : Int) = (15 - f : Nat) by omega, sshift_natCast, sat16_eq_clamp16]
  rfl

section
variable {a : Int} (rom : Rom) (f : Nat)

theorem tanSignals_eq_false (h₁ : a ≠ 16384) (h₂ : a ≠ -16384) : tanSignals a = false := by
  simp [tanSignals, h₁, h₂]

theorem tanCore_of_not_asymptote (h₁ : a ≠ 16384) (h₂ : a ≠ -16384) :
    tanCore rom a f = tanQuotient (sinCore rom a) (cosCore rom a) f := (if_neg h₁).trans (if_neg h₂)

end

theorem tanQuotient_of_zero (s : Int) (f : Nat) :
    tanQuotient s 0 f = if 0 ≤ s then 32767 else -32767 := if_pos rfl

theorem tanQuotient_of_ne_zero (s : Int) {c : Int} (hc : c ≠ 0) (f : Nat) :
    tanQuotient s c f = fromq15 (qdiv15 s c) f := if_neg hc

/-- Settles O29: the asymptotes by evaluation; elsewhere the latches of `SINCOS` hold the sine and the cosine that `TAN`
divides. -/
theorem tanIsRoundedQuotient : Obligations.TanIsRoundedQuotient := by
  unfold Obligations.TanIsRoundedQuotient
  intro a f s hwf
  obtain ⟨_, hf⟩ := Bool.and_eq_true_iff.mp hwf
  refine ⟨_, _, exec_tan a f s, exec_sincos a s, ?_, ?_, fun h₁ h₂ => ?_⟩
  · rintro rfl
    exact ⟨rfl, oneResult_deliver _ _ _⟩
  · rintro rfl
    exact ⟨rfl, oneResult_deliver _ _ _⟩
  · rw [State.setR1_r1, State.setR1_r0, State.deliver_r0, State.deliver_r0, enc16_sinCore_toInt, enc16_cosCore_toInt,
      tanSignals_eq_false h₁ h₂, tanCore_of_not_asymptote s.rom f h₁ h₂]
    refine ⟨oneResult_deliver _ _ _, fun hc => ?_, fun hc => ⟨_, nearest_qdiv15 _ hc, ?_⟩⟩
    · rw [hc, tanQuotient_of_zero]
      rfl
    · rw [tanQuotient_of_ne_zero _ hc]
      exact rescaled_fromq15 _ (of_decide_eq_true hf)

end Sys2Proof.Machine
end

section
/-! Vectoring mode (42_circular_cordic.md R148 to R153). The loop with its early exit is the sequence of a step that
does nothing on a zero residual; `ATAN`, `ASIN` and `ACOS` deliver what `ATAN2` delivers for a pair they compute, so
what is left of them is that pair. -/

namespace Sys2Proof.Machine

open Sys2Proof.Claim

/-! ### The vectoring loop (R148) -/

section
variable {v : Cordic} (e : Nat × Int)

theorem vecStutter_of_zero (h : v.y = 0) : vecStutter v e = v := if_pos h

theorem vecStutter_of_pos (h : 0 < v.y) :
    vecStutter v e = ⟨v.x + v.y / 2 ^ e.1, v.y - v.x / 2 ^ e.1, v.z + e.2, e.1⟩ :=
  (if_neg h.ne').trans (if_pos h)

theorem vecStutter_of_neg (h : v.y < 0) :
    vecStutter v e = ⟨v.x - v.y / 2 ^ e.1, v.y + v.x / 2 ^ e.1, v.z - e.2, e.1⟩ :=
  (if_neg h.ne).trans (if_neg h.not_gt)

end

section
variable (rom : Rom) (y x : Int)

/-- The registers before the `k`-th vectoring step from `(x, y)`. -/
def vecAt (k : Nat) : Cordic := circAt rom vecStutter ⟨x, y, 0, 0⟩ k

theorem vecAt_succ (i : Fin 14) : vecAt rom y x (i + 1) = vecStutter (vecAt rom y x i) (i, rom.atanPiQ15.get i) :=
  circAt_succ rom vecStutter _ i

theorem vecRun_vecAt :
    VecRun rom y x (fun k => (vecAt rom y x k).x) (fun k => (vecAt rom y x k).y) (fun k => (vecAt rom y x k).z) := by
  refine ⟨rfl, rfl, rfl, fun i => ⟨fun h => ?_, fun h => ?_, fun h => ?_⟩⟩
  · simp only [vecAt_succ, vecStutter_of_zero _ h, and_self]
  · simp only [vecAt_succ, vecStutter_of_pos _ h, and_self]
  · simp only [vecAt_succ, vecStutter_of_neg _ h, and_self]

end

section
variable (rom : Rom) {y x : Int}

theorem vecLoop_circSteps (v : Cordic) : vecLoop rom.circSteps v = circAt rom vecStutter v 14 := by
  rw [vecLoop_eq_foldl, circAt_fourteen]

theorem vecRun_of_pos (hx : 0 < x) : vecRun rom y x = vecAt rom y x 14 := by
  rw [vecRun, vecStart, if_neg hx.not_gt, vecLoop_circSteps]
  rfl

/-- A vector in the left half-plane is reflected. -/
theorem vecRun_of_neg (hx : x < 0) : vecRun rom y x = vecAt rom (-y) (-x) 14 := by
  rw [vecRun, vecStart, if_pos hx, vecLoop_circSteps]
  rfl

/-! ### The cases of `atan2_core` (R148) -/

theorem atan2Core_zero_of_nonneg (hx : 0 ≤ x) : atan2Core rom 0 x = 0 := (if_pos rfl).trans (if_pos hx)

theorem atan2Core_zero_of_neg (hx : x < 0) : atan2Core rom 0 x = 32767 := (if_pos rfl).trans (if_neg hx.not_ge)

theorem atan2Core_of_pos_zero (hy : 0 < y) : atan2Core rom y 0 = 16384 :=
  (if_neg hy.ne').trans ((if_pos rfl).trans (if_pos hy))

theorem atan2Core_of_neg_zero (hy : y < 0) : atan2Core rom y 0 = -16384 :=
  (if_neg hy.ne).trans ((if_pos rfl).trans (if_neg hy.not_gt))

theorem atan2Core_of_ne_zero (hy : y ≠ 0) (hx : x ≠ 0) :
    atan2Core rom y x = clamp16 ((vecRun rom y x).z + vecCorr y x) := by
  rw [atan2Core, if_neg hy, if_neg hx, sat16_eq_clamp16]

theorem atan2Core_of_pos (hy : y ≠ 0) (hx : 0 < x) : atan2Core rom y x = clamp16 (vecAt rom y x 14).z := by
  rw [atan2Core_of_ne_zero rom hy hx.ne', vecRun_of_pos rom hx, vecCorr, if_neg hx.not_gt, add_zero]

theorem atan2Core_of_neg (hy : y ≠ 0) (hx : x < 0) :
    atan2Core rom y x = clamp16 ((vecAt rom (-y) (-x) 14).z + if 0 < y then 32768 else -32768) := by
  rw [atan2Core_of_ne_zero rom hy hx.ne, vecRun_of_neg rom hx, vecCorr, if_pos hx]

end

/-- Settles O30: one lemma per axis, and `vecRun_vecAt` from the vector or its reflection off the axes. -/
theorem atan2IsVectoring : Obligations.Atan2IsVectoring := by
  unfold Obligations.Atan2IsVectoring
  intro y x s _
  refine ⟨_, exec_atan2 y x s, oneResult_deliver _ _ _, ?_⟩
  rw [State.deliver_r0]
  refine ⟨?_, ?_, ?_, ?_, fun hy hx => ⟨_, _, _, vecRun_vecAt s.rom y x, ?_⟩,
    fun hy hx => ⟨_, _, _, vecRun_vecAt s.rom (-y) (-x), ?_⟩⟩
  · rintro rfl hx
    rw [atan2Core_zero_of_nonneg s.rom hx]
    rfl
  · rintro rfl hx
    rw [atan2Core_zero_of_neg s.rom hx]
    rfl
  · rintro hy rfl
    rw [atan2Core_of_pos_zero s.rom hy]
    rfl
  · rintro hy rfl
    rw [atan2Core_of_neg_zero s.rom hy]
    rfl
  · rw [atan2Core_of_pos s.rom hy hx]
    rfl
  · rw [atan2Core_of_neg s.rom hy hx]
    rfl

/-! ### The halvings of `ATAN` (R150) -/

/-- One pass of the normalising loop. -/
def Scaled.halve (v : Scaled) : Scaled := ⟨rsr v.ys 1, asr v.xs 1, v.halvings + 1⟩

theorem scaledFits_iff (v : Scaled) : scaledFits v = true ↔ -32768 ≤ v.ys ∧ v.ys ≤ 32767 ∧ v.xs ≤ 32767 := by
  simp only [scaledFits, Bool.not_eq_true', Bool.or_eq_false_iff, decide_eq_false_iff_not]
  omega

/-- The loop halves while the pair does not fit and passes are left. -/
theorem atanLoop_eq_iterate (fuel : Nat) (v : Scaled) :
    ∃ k ≤ fuel, atanLoop fuel v = Scaled.halve^[k] v ∧ (∀ j < k, scaledFits (Scaled.halve^[j] v) = false) ∧
      (k < fuel → scaledFits (Scaled.halve^[k] v) = true) := by
  induction fuel generalizing v with
  | zero => exact ⟨0, le_rfl, rfl, nofun, nofun⟩
  | succ fuel ih =>
    cases hv : scaledFits v with
    | true => exact ⟨0, Nat.zero_le _, if_pos hv, nofun, fun _ => hv⟩
    | false =>
      obtain ⟨k, hk, he, hbefore, hend⟩ := ih v.halve
      refine ⟨k + 1, by omega, ?_, fun j hj => ?_, fun h => hend (by omega)⟩
      · rw [atanLoop, hv]
        exact he
      · cases j with
        | zero => exact hv
        | succ j => exact hbefore j (by omega)

section
variable (y : Int) (f : Nat)

/-- The pair after `j` halvings. -/
def scaledAt (j : Nat) : Scaled := Scaled.halve^[j] ⟨shl y (15 - f), 32768, 0⟩

theorem scaledAt_succ (j : Nat) : scaledAt y f (j + 1) = (scaledAt y f j).halve := Function.iterate_succ_apply' _ _ _

/-- Each halving of the operand is the nearest quotient by two. -/
theorem nearest_scaledAt_succ (j : Nat) : Nearest (scaledAt y f j).ys 2 (scaledAt y f (j + 1)).ys := by
  rw [scaledAt_succ]
  exact nearest_rsr _ 1

/-- The reference 1.0 is halved exactly. -/
theorem scaledAt_xs (j : Nat) (hj : j ≤ 15) : (scaledAt y f j).xs = 2 ^ (15 - j) := by
  induction j with
  | zero => rfl
  | succ j ih =>
    rw [scaledAt_succ, Scaled.halve, ih (by omega), asr, show 15 - j = 15 - (j + 1) + 1 by omega, pow_succ, pow_one]
    exact Int.mul_ediv_cancel _ (by decide)

end

/-- Halving with rounding halves a range around zero whose bounds are even. -/
theorem rsr_one_bounds {v l u : Int} (h₁ : 2 * l ≤ v) (h₂ : v ≤ 2 * u) (hl : l ≤ 0) (hu : 0 ≤ u) :
    l ≤ rsr v 1 ∧ rsr v 1 ≤ u := by
  obtain ⟨_, hhi, hnonneg, hnonpos⟩ := rsr_nearest v 1
  rcases le_total 0 v with hv | hv
  · have hr := hnonneg hv
    rw [abs_of_nonneg hv, abs_of_nonneg hr] at hhi
    omega
  · have hr := hnonpos hv
    rw [abs_of_nonpos hv, abs_of_nonpos hr] at hhi
    omega

section
variable {y : Int} {f : Nat}

/-- After `j` halvings the operand is within the 16-bit range times 2^(15-j): it stays there because both bounds are
halved exactly. -/
theorem scaledAt_ys_bounds (hy : narrowOk y = true) (j : Nat) (hj : j ≤ 15) :
    -32768 * 2 ^ (15 - j) ≤ (scaledAt y f j).ys ∧ (scaledAt y f j).ys ≤ 32767 * 2 ^ (15 - j) := by
  simp only [narrowOk, Bool.and_eq_true, decide_eq_true_eq] at hy
  obtain ⟨hlo, hhi⟩ := hy
  induction j with
  | zero =>
    have hpow : (2 : Int) ^ (15 - f) ≤ 2 ^ 15 := pow_le_pow_right₀ (by decide) (by omega)
    have hpos : (0 : Int) < 2 ^ (15 - f) := by positivity
    change -32768 * 2 ^ 15 ≤ y * 2 ^ (15 - f) ∧ y * 2 ^ (15 - f) ≤ 32767 * 2 ^ 15
    constructor <;> nlinarith
  | succ j ih =>
    obtain ⟨h₁, h₂⟩ := ih (by omega)
    rw [show 15 - j = 15 - (j + 1) + 1 by omega, pow_succ] at h₁ h₂
    have hpos : (0 : Int) < 2 ^ (15 - (j + 1)) := by positivity
    rw [scaledAt_succ]
    exact rsr_one_bounds (by linarith) (by linarith) (by linarith) (by linarith)

/-- Fifteen halvings always suffice (R150). -/
theorem scaledFits_scaledAt_fifteen (hy : narrowOk y = true) : scaledFits (scaledAt y f 15) = true := by
  obtain ⟨h₁, h₂⟩ := scaledAt_ys_bounds (f := f) hy 15 le_rfl
  exact (scaledFits_iff _).mpr ⟨by simpa using h₁, by simpa using h₂, by rw [scaledAt_xs y f 15 le_rfl]; decide⟩

/-- Everything the normalisation does: it stops at the first pair that fits. -/
theorem atanScale_eq_scaledAt (hy : narrowOk y = true) :
    ∃ k ≤ 15, atanScale y f = scaledAt y f k ∧ (∀ j < k, scaledFits (scaledAt y f j) = false) ∧
      scaledFits (scaledAt y f k) = true := by
  obtain ⟨k, hk, he, hbefore, hend⟩ := atanLoop_eq_iterate 15 ⟨shl y (15 - f), 32768, 0⟩
  refine ⟨k, hk, he, hbefore, ?_⟩
  rcases hk.lt_or_eq with hlt | rfl
  · exact hend hlt
  · exact scaledFits_scaledAt_fifteen hy

end

/-- Settles O31: the first pair that fits is not the one before any halving, whose reference is 32768, and later ones
fail to fit by their operand alone. -/
theorem atanIsAtan2OfScaledPair : Obligations.AtanIsAtan2OfScaledPair := by
  unfold Obligations.AtanIsAtan2OfScaledPair
  intro y f s hwf
  obtain ⟨hy, _⟩ := Bool.and_eq_true_iff.mp hwf
  obtain ⟨k, hk, he, hbefore, hfits⟩ := atanScale_eq_scaledAt (f := f) hy
  obtain ⟨hlo, hhi, hxs⟩ := (scaledFits_iff _).mp hfits
  have hk₁ : 1 ≤ k := by
    by_contra! h
    obtain rfl : k = 0 := by omega
    rw [scaledAt_xs y f 0 (by decide)] at hxs
    exact absurd hxs (by decide)
  refine ⟨_, _, k, fun j => (scaledAt y f j).ys, hk₁, hk, rfl, fun j _ => nearest_scaledAt_succ y f j,
    fun j hj hj₁ => ?_, hlo, hhi, exec_atan y f s, exec_atan2 _ _ s, ?_, oneResult_deliver _ _ _⟩
  · have hx : (scaledAt y f j).xs ≤ 2 ^ 14 := by
      rw [scaledAt_xs y f j (by omega)]
      exact pow_le_pow_right₀ (by decide) (by omega)
    have hnot := mt (scaledFits_iff (scaledAt y f j)).mpr (Bool.eq_false_iff.mp (hbefore j hj))
    dsimp only
    omega
  · rw [State.deliver_r0, State.deliver_r0, atanCore, he, scaledAt_xs y f k hk]

/-! ### The root of `ASIN` and `ACOS` (R151) -/

section
variable {x : Int}

/-- The rounded square of a 16-bit operand fits, so the product does not saturate. -/
theorem nearest_qmul15_self (hx : narrowOk x = true) : Nearest (x * x) 32768 (qmul15 x x) := by
  simp only [narrowOk, Bool.and_eq_true, decide_eq_true_eq] at hx
  obtain ⟨hlo, hhi⟩ := hx
  have hsq : wideOk (x * x) = true := by
    simp only [wideOk, Bool.and_eq_true, decide_eq_true_eq]
    constructor <;> nlinarith
  have hr := wideOk_rsr hsq 15
  simp only [wideOk, Bool.and_eq_true, decide_eq_true_eq] at hr
  obtain ⟨hrlo, hrhi⟩ := hr
  rw [qmul15, sat32_eq_self hrlo hrhi]
  exact nearest_rsr (x * x) 15

theorem asinRadicand_eq (x : Int) : asinRadicand x = max 0 (min 32767 (32768 - qmul15 x x)) := by
  unfold asinRadicand
  dsimp only
  split_ifs <;> omega

/-- What `ASIN` and `ACOS` share: `asin_c(x)` is the floor root of the clamped `1 - x^2`. -/
theorem asinC_floor (hx : narrowOk x = true) :
    ∃ (x2 : Int) (c : Nat), asinC x = c ∧ Nearest (x * x) 32768 x2 ∧
      (c * c : Int) ≤ max 0 (min 32767 (32768 - x2)) * 32768 ∧
      max 0 (min 32767 (32768 - x2)) * 32768 < (c + 1 : Int) * (c + 1) := by
  have hr := asinRadicand_eq x
  have hwf : (Instr.sqrt (asinRadicand x) 15).wf = true := by
    simp only [Instr.wf, narrowOk, fracOk, Bool.and_eq_true, decide_eq_true_eq]
    omega
  obtain ⟨c, hc, _, hlo, hhi⟩ := sqrtCore_floor hwf (asinRadicand_nonneg x)
  rw [hr] at hlo hhi
  exact ⟨qmul15 x x, c, hc, nearest_qmul15_self hx, hlo, hhi⟩

end

/-- Settles O32: `ASIN` delivers `atan2_core(x, asin_c(x))`, and its inner square root never signals. -/
theorem asinIsAtan2OfRoot : Obligations.AsinIsAtan2OfRoot := by
  unfold Obligations.AsinIsAtan2OfRoot
  intro x s hx
  obtain ⟨x2, c, hc, hx2, hlo, hhi⟩ := asinC_floor hx
  refine ⟨_, _, x2, c, hx2, hlo, hhi, exec_asin x s, exec_atan2 x c s, ?_, ?_⟩
  · rw [State.deliver_r0, State.deliver_r0, hc]
  · rw [sqrtSignals_asinRadicand]
    exact oneResult_deliver _ _ _

/-- Settles O33: as O32, with the axis arguments swapped. -/
theorem acosIsAtan2OfRoot : Obligations.AcosIsAtan2OfRoot := by
  unfold Obligations.AcosIsAtan2OfRoot
  intro x s hx
  obtain ⟨x2, c, hc, hx2, hlo, hhi⟩ := asinC_floor hx
  refine ⟨_, _, x2, c, hx2, hlo, hhi, exec_acos x s, exec_atan2 c x s, ?_, ?_⟩
  · rw [State.deliver_r0, State.deliver_r0, hc]
  · rw [sqrtSignals_asinRadicand]
    exact oneResult_deliver _ _ _

end Sys2Proof.Machine
end

section
/-! The hyperbolic engine (43_hyperbolic_cordic.md R181 to R192). The core is said once, in the words of the statements,
for any contents of the ROMs (`wideSinhCosh`); the range reduction with the default constants is linear arithmetic over
the rounding of `hypN`, and the saturated extremes follow from the short-circuit. -/

namespace Sys2Proof.Machine

open Sys2Proof.Claim

/-! ### The micro-rotations as a sequence of register contents (R183) -/

section
variable {v : Cordic}

theorem hypStep_of_nonneg (h : 0 ≤ v.z) (i : Nat) (e : Int) :
    hypStep v (i, e) = ⟨v.x + v.y / 2 ^ i, v.y + v.x / 2 ^ i, v.z - e, i⟩ := if_pos h

theorem hypStep_of_neg (h : v.z < 0) (i : Nat) (e : Int) :
    hypStep v (i, e) = ⟨v.x - v.y / 2 ^ i, v.y - v.x / 2 ^ i, v.z + e, i⟩ := if_neg (not_le.mpr h)

end

section
variable (rom : Rom) (r : Int)

/-- The registers before the `k`-th hyperbolic micro-rotation, counted from 0. -/
def hypAt (k : Nat) : Cordic := (rom.hypSteps.take k).foldl hypStep ⟨rom.kHyp, 0, r, 0⟩

theorem hypSmall_eq_hypAt : hypSmall rom r = hypAt rom r 18 := (foldl_take_length hypStep rom.hypSteps _).symm

theorem hypSteps_getElem_eq {k : Nat} (h : k < rom.hypSteps.length) :
    rom.hypSteps[k] = (hypIndex k, hypAngle rom k) := by
  have hk : k < Config.hypSeq.length := by simpa [Rom.hypSteps] using h
  have hidx : Config.hypSeq[k] = hypIndex k := (List.getD_eq_getElem _ 0 hk).symm
  rw [hypSteps_get, hidx]
  rfl

theorem hypAt_succ {k : Nat} (hk : k < 18) :
    hypAt rom r (k + 1) = hypStep (hypAt rom r k) (hypIndex k, hypAngle rom k) := by
  have hlen : k < rom.hypSteps.length := (hypSteps_length rom).symm ▸ hk
  rw [hypAt, foldl_take_succ hypStep _ _ k hlen, hypSteps_getElem_eq]
  rfl

theorem hypRun_hypAt :
    HypRun rom r (fun k => (hypAt rom r k).x) (fun k => (hypAt rom r k).y) (fun k => (hypAt rom r k).z) := by
  refine ⟨rfl, rfl, rfl, fun k hk => ⟨fun h => ?_, fun h => ?_⟩⟩
  · simp only [hypAt_succ rom r hk, hypStep_of_nonneg h, and_self]
  · simp only [hypAt_succ rom r hk, hypStep_of_neg h, and_self]

end

/-! ### Recomposition (R185) -/

/-- A rounding shift of a multiple of its power of two is exact. -/
theorem rsr_mul_two_pow (m : Int) (n : Nat) : rsr (m * 2 ^ n) n = m := by
  have hp : (0 : Int) < 2 ^ n := by positivity
  obtain ⟨hlo, hhi, hnonneg, hnonpos⟩ := rsr_nearest (m * 2 ^ n) n
  rw [abs_mul, abs_of_pos hp] at hlo hhi
  have habs : |rsr (m * 2 ^ n) n| = |m| := by
    have h₁ : 2 * |m| - 1 < 2 * |rsr (m * 2 ^ n) n| := lt_of_mul_lt_mul_right (by linarith) hp.le
    have h₂ : 2 * |rsr (m * 2 ^ n) n| ≤ 2 * |m| + 1 := le_of_mul_le_mul_right (by linarith) hp
    omega
  rcases le_total 0 m with hm | hm
  · rwa [abs_of_nonneg hm, abs_of_nonneg (hnonneg (mul_nonneg hm hp.le))] at habs
  · rw [abs_of_nonpos hm, abs_of_nonpos (hnonpos (mul_nonpos_of_nonpos_of_nonneg hm hp.le))] at habs
    omega

section
variable {n : Int}

/-- One of the two powers is at most 2^30, the other at most 2^15, so neither their sum nor their difference
saturates. -/
theorem two_pow_add_two_pow_le (h : |n| < 16) :
    (2 : Int) ^ (15 + n).toNat + 2 ^ (15 - n).toNat ≤ 1073774592 := by
  obtain ⟨hlo, hhi⟩ := abs_lt.mp h
  rcases le_total 0 n with hn | hn
  · have hA : (2 : Int) ^ (15 + n).toNat ≤ 2 ^ 30 := pow_le_pow_right₀ (by decide) (by omega)
    have hB : (2 : Int) ^ (15 - n).toNat ≤ 2 ^ 15 := pow_le_pow_right₀ (by decide) (by omega)
    omega
  · have hA : (2 : Int) ^ (15 + n).toNat ≤ 2 ^ 15 := pow_le_pow_right₀ (by decide) (by omega)
    have hB : (2 : Int) ^ (15 - n).toNat ≤ 2 ^ 30 := pow_le_pow_right₀ (by decide) (by omega)
    omega

/-- `pow2q15` is exact in both directions. -/
theorem pow2q15_eq (h : |n| < 16) : pow2q15 n = 2 ^ (15 + n).toNat := by
  obtain ⟨hlo, hhi⟩ := abs_lt.mp h
  rcases le_or_gt 0 n with hn | hn
  · have hpos : (0 : Int) < 2 ^ (15 + n).toNat := by positivity
    have hle : (2 : Int) ^ (15 + n).toNat ≤ 2 ^ 30 := pow_le_pow_right₀ (by decide) (by omega)
    have hshl : shl 32768 n.toNat = 2 ^ (15 + n).toNat := by
      rw [show (15 + n).toNat = 15 + n.toNat by omega, pow_add]
      rfl
    rw [pow2q15, if_pos hn, hshl, sat32_eq_self (by omega) (by omega)]
  · have hsplit : (32768 : Int) = 2 ^ (15 + n).toNat * 2 ^ (-n).toNat := by
      rw [← pow_add, show (15 + n).toNat + (-n).toNat = 15 by omega]
      rfl
    rw [pow2q15, if_neg (not_le.mpr hn), hsplit, rsr_mul_two_pow]

theorem pow2q15_neg_eq (h : |n| < 16) : pow2q15 (-n) = 2 ^ (15 - n).toNat := pow2q15_eq (abs_neg n ▸ h)

theorem nearest_factors (h : |n| < 16) :
    Nearest (2 ^ (15 + n).toNat + 2 ^ (15 - n).toNat) 2 (coshFactor n) ∧
      Nearest (2 ^ (15 + n).toNat - 2 ^ (15 - n).toNat) 2 (sinhFactor n) := by
  have hA : (0 : Int) < 2 ^ (15 + n).toNat := by positivity
  have hB : (0 : Int) < 2 ^ (15 - n).toNat := by positivity
  have hle := two_pow_add_two_pow_le h
  rw [coshFactor, sinhFactor, pow2q15_eq h, pow2q15_neg_eq h, sadd32, sadd32,
    sat32_eq_self (by omega) (by omega), sat32_eq_self (by omega) (by omega)]
  exact ⟨nearest_rsr _ 1, nearest_rsr _ 1⟩

end

/-- `qmul15` in the words of the statements (40_primitives.md R95). -/
theorem product_qmul15 (a b : Int) : Product a b (qmul15 a b) := ⟨_, nearest_rsr (a * b) 15, sat32_eq_clamp _⟩

theorem recomposed_factors {n : Int} (h : |n| < 16) (cr sr : Int) :
    Recomposed n cr sr (sadd32 (qmul15 sr (coshFactor n)) (qmul15 cr (sinhFactor n)))
      (sadd32 (qmul15 cr (coshFactor n)) (qmul15 sr (sinhFactor n))) := by
  obtain ⟨hcosh, hsinh⟩ := nearest_factors h
  exact ⟨_, _, _, _, _, _, hcosh, hsinh, product_qmul15 _ _, product_qmul15 _ _, product_qmul15 _ _,
    product_qmul15 _ _, sat32_eq_clamp _, sat32_eq_clamp _⟩

/-! ### The core (R184, R186) -/

section
variable {rom : Rom} {xq : Int}

theorem hypShort_iff : hypShort rom xq = true ↔ 16 ≤ |hypN rom xq| := by
  rw [hypShort, decide_eq_true_iff, Config.nLimit, Int.abs_eq_natAbs]
  omega

theorem sinhCore_of_short (h : hypShort rom xq = true) :
    sinhCore rom xq = if 0 < xq then 2147483647 else -2147483647 := if_pos h

theorem coshCore_of_short (h : hypShort rom xq = true) : coshCore rom xq = 2147483647 := if_pos h

end

/-- The two sides of the model's core are the pair of the statements, whatever the ROMs hold. -/
theorem wideSinhCosh (rom : Rom) (xq : Int) : WideSinhCosh rom xq (sinhCore rom xq) (coshCore rom xq) := by
  refine ⟨hypN rom xq, nearest_rsr _ 30, fun hlarge => ?_, fun hsmall => ?_⟩
  · have hshort := hypShort_iff.mpr hlarge
    exact ⟨coshCore_of_short hshort, sinhCore_of_short hshort⟩
  · have hlong : ¬ hypShort rom xq = true := mt hypShort_iff.mp (not_le.mpr hsmall)
    refine ⟨_, _, _, hypRun_hypAt rom (hypR rom xq), ?_⟩
    rw [sinhCore, coshCore, if_neg hlong, if_neg hlong, hypSmall_eq_hypAt]
    exact recomposed_factors hsmall _ _

/-- The result format, in the form `SINH`, `COSH` and `TANH` share: `Instr.wf` says the same of the three. -/
theorem resultFormat_le {fy fx : Nat} {x : Int} (h : (Instr.sinh fy x fx).wf = true) : fy ≤ 15 := by
  simp only [Instr.wf, fracOk, Bool.and_eq_true, decide_eq_true_eq] at h
  obtain ⟨⟨hfy, _⟩, _⟩ := h
  exact hfy

/-- Settles O34: `wideSinhCosh` at the operand, and the rescale of R188. -/
theorem sinhDeliversWideSine : Obligations.SinhDeliversWideSine := by
  unfold Obligations.SinhDeliversWideSine
  intro fy x fx s hwf
  have hfy : fy ≤ 15 := resultFormat_le hwf
  exact ⟨_, _, _, exec_sinh fy x fx s, wideSinhCosh s.rom _, rescaled_fromq15 _ hfy, oneResult_deliver s _ _⟩

/-- Settles O35: as O34, with the other side of the core. -/
theorem coshDeliversWideCosine : Obligations.CoshDeliversWideCosine := by
  unfold Obligations.CoshDeliversWideCosine
  intro fy x fx s hwf
  have hfy : fy ≤ 15 := resultFormat_le hwf
  exact ⟨_, _, _, exec_cosh fy x fx s, wideSinhCosh s.rom _, rescaled_fromq15 _ hfy, oneResult_deliver s _ _⟩

/-! ### The quotient of `TANH` (R187) -/

section
variable {rom : Rom} {xq : Int}

theorem tanhCore_of_gt (h : 393216 < xq) : tanhCore rom xq = 32767 := if_pos h

theorem tanhCore_of_lt (h : xq < -393216) : tanhCore rom xq = -32767 :=
  (if_neg (not_lt.mpr (by unfold Config.tanhThresh; omega))).trans (if_pos h)

theorem tanhCore_of_within (h₁ : -393216 ≤ xq) (h₂ : xq ≤ 393216) :
    tanhCore rom xq = max (-32767) (min 32767 (qdiv15 (sinhCore rom xq) (coshCore rom xq))) := by
  have hgt : ¬ xq > Config.tanhThresh := not_lt.mpr h₂
  have hlt : ¬ xq < -Config.tanhThresh := not_lt.mpr h₁
  rw [tanhCore, if_neg hgt, if_neg hlt]
  dsimp only
  split_ifs <;> omega

/-- The open interval (-1, 1), whatever the ROMs hold (R192 d). -/
theorem abs_tanhCore_le : |tanhCore rom xq| ≤ 32767 := by
  rcases lt_or_ge 393216 xq with hgt | hle
  · rw [tanhCore_of_gt hgt]
    decide
  · rcases lt_or_ge xq (-393216) with hlt | hge
    · rw [tanhCore_of_lt hlt]
      decide
    · rw [tanhCore_of_within hge hle, abs_le]
      omega

/-- Where the short-circuit is taken the clamp of the quotient ±1.0 gives what lies beyond the threshold too. -/
theorem tanhCore_of_short (h : hypShort rom xq = true) : tanhCore rom xq = if 0 < xq then 32767 else -32767 := by
  rcases lt_or_ge 393216 xq with hgt | hle
  · rw [tanhCore_of_gt hgt, if_pos (by omega)]
  · rcases lt_or_ge xq (-393216) with hlt | hge
    · rw [tanhCore_of_lt hlt, if_neg (by omega)]
    · rw [tanhCore_of_within hge hle, sinhCore_of_short h, coshCore_of_short h]
      split <;> rfl

end

/-- `rescaled_fromq15` for a wide value known by an equation. -/
theorem rescaled_of_eq {u v : Int} (h : u = v) {fy : Nat} (hfy : fy ≤ 15) :
    Rescaled v fy (enc16 (fromq15 u fy)) := h ▸ rescaled_fromq15 u hfy

/-- Settles O36: one lemma per range of the argument; within the threshold the two sides are those of `wideSinhCosh`. -/
theorem tanhIsClampedQuotient : Obligations.TanhIsClampedQuotient := by
  unfold Obligations.TanhIsClampedQuotient
  intro fy x fx s hwf
  have hfy : fy ≤ 15 := resultFormat_le hwf
  exact ⟨_, exec_tanh fy x fx s, oneResult_deliver s _ _,
    fun hgt => rescaled_of_eq (tanhCore_of_gt hgt) hfy,
    fun hlt => rescaled_of_eq (tanhCore_of_lt hlt) hfy,
    fun hge hle => ⟨_, _, wideSinhCosh s.rom _, fun hC =>
      ⟨_, nearest_qdiv15 _ hC, rescaled_of_eq (tanhCore_of_within hge hle) hfy⟩⟩⟩

/-- A value that fits 16 bits is rescaled without saturation, and its magnitude does not grow. -/
theorem abs_fromq15_le {v : Int} (hv : |v| ≤ 32767) {fy : Nat} (hfy : fy ≤ 15) : |fromq15 v fy| ≤ 32767 := by
  have hr : |rsr v (15 - fy)| ≤ 32767 := (abs_rsr_le v _).trans hv
  obtain ⟨hlo, hhi⟩ := abs_le.mp hr
  rwa [fromq15, show (15 - fy : Int) = (15 - fy : Nat) by omega, sshift_natCast, sat16_eq_self (by omega) hhi]

/-- Settles O37: the bound of `tanhCore` survives the rescale. -/
theorem tanhStaysInOpenInterval : Obligations.TanhStaysInOpenInterval := by
  unfold Obligations.TanhStaysInOpenInterval
  intro fy x fx s t hwf ht
  have hfy : fy ≤ 15 := resultFormat_le hwf
  simp only [exec_tanh, Host.Outcome.next.injEq] at ht
  obtain ⟨hlo, hhi⟩ := abs_le.mp (abs_fromq15_le (abs_tanhCore_le (rom := s.rom) (xq := toq15 x fx)) hfy)
  rw [← ht, State.deliver_r0, enc16_toInt (by omega) hhi]
  exact ⟨hlo, hhi⟩

/-! ### The range reduction with the default constants (R182) -/

section
variable (xq : Int)

/-- How `hypN` rounds, in magnitudes, and the sign it keeps. -/
theorem hypN_default_bounds :
    94548 * |xq| - 1073741824 < 2147483648 * |hypN Rom.default xq| ∧
      2147483648 * |hypN Rom.default xq| ≤ 94548 * |xq| + 1073741824 ∧
      (0 ≤ xq → 0 ≤ hypN Rom.default xq) ∧ (xq ≤ 0 → hypN Rom.default xq ≤ 0) := by
  obtain ⟨hlo, hhi, hnonneg, hnonpos⟩ := rsr_nearest (xq * 47274) 30
  rw [abs_mul, abs_of_pos (by decide : (0 : Int) < 47274)] at hlo hhi
  change (_ < 2 * |hypN Rom.default xq| * 2 ^ 30) at hlo
  change (2 * |hypN Rom.default xq| * 2 ^ 30 ≤ _) at hhi
  exact ⟨by omega, by omega, fun h => hnonneg (by omega), fun h => hnonpos (by omega)⟩

theorem hypShort_default_iff : hypShort Rom.default xq = true ↔ 352054 ≤ |xq| := by
  obtain ⟨hlo, hhi, _⟩ := hypN_default_bounds xq
  rw [hypShort_iff]
  constructor <;> intro <;> omega

theorem abs_hypR_default_le (h : hypShort Rom.default xq = false) : |hypR Rom.default xq| ≤ 11358 := by
  have hn : |hypN Rom.default xq| < 16 := not_le.mp (mt hypShort_iff.mpr (Bool.eq_false_iff.mp h))
  obtain ⟨hlo, hhi, hnonneg, hnonpos⟩ := hypN_default_bounds xq
  change |xq - hypN Rom.default xq * 22713| ≤ 11358
  rw [abs_le]
  rcases le_total 0 xq with hx | hx
  · rw [abs_of_nonneg (hnonneg hx)] at hlo hhi hn
    rw [abs_of_nonneg hx] at hlo hhi
    omega
  · rw [abs_of_nonpos (hnonpos hx)] at hlo hhi hn
    rw [abs_of_nonpos hx] at hlo hhi
    omega

end

/-- Settles O39: both clauses are linear in the magnitudes of the argument and of its exponent. -/
theorem rangeReductionResidual : Obligations.RangeReductionResidual := by
  unfold Obligations.RangeReductionResidual
  exact fun xq => ⟨hypShort_default_iff xq, abs_hypR_default_le xq⟩

/-! ### The saturated extremes (R184) -/

/-- The largest wide value saturates in every format. -/
theorem fromq15_int32_max {fy : Nat} (h : fy ≤ 15) : fromq15 2147483647 fy = 32767 := by
  interval_cases fy <;> rfl

theorem fromq15_neg_int32_max {fy : Nat} (h : fy ≤ 15) : fromq15 (-2147483647) fy = -32768 := by
  interval_cases fy <;> rfl

/-- Settles O38: the short-circuit is taken, and the three values it gives are rescaled. -/
theorem largeArgumentsSaturate : Obligations.LargeArgumentsSaturate := by
  unfold Obligations.LargeArgumentsSaturate
  intro fy x fx s hwf hrom hx
  have hfy : fy ≤ 15 := resultFormat_le hwf
  have hshort : hypShort s.rom (toq15 x fx) = true := hrom ▸ (hypShort_default_iff _).mpr hx
  have hsign : 0 < toq15 x fx ↔ 0 < x := mul_pos_iff_of_pos_right (by positivity)
  refine ⟨_, _, _, exec_cosh fy x fx s, exec_sinh fy x fx s, exec_tanh fy x fx s, ?_, ?_, ?_⟩
  · rw [State.deliver_r0, coshCore_of_short hshort, fromq15_int32_max hfy]
    rfl
  · rw [State.deliver_r0, sinhCore_of_short hshort, apply_ite (fromq15 · fy), fromq15_int32_max hfy,
      fromq15_neg_int32_max hfy]
    simp only [hsign]
    rfl
  · exact rescaled_of_eq ((tanhCore_of_short hshort).trans (by simp only [hsign])) hfy

end Sys2Proof.Machine
end

section
/-! The two operations on the error indicator (44_system.md R210, R211): the equations of `exec` say which state
operation each one is, and what is left is what that operation writes. -/

namespace Sys2Proof.Machine

/-- The pattern a latch stores for the value of a shorter word is that word zero-extended (R211). -/
theorem enc16_toNat {n : Nat} (x : BitVec n) : enc16 x.toNat = x.setWidth 16 := by
  rw [enc16, BitVec.ofInt_natCast, BitVec.ofNat_toNat]

/-- Delivering a result without working registers writes `R0` and answers DONE. -/
theorem deliver_id (s : State) (v : Int) :
    s.deliver id v = { s with r0 := enc16 v, r0Written := true, answer := some .done } := rfl

/-- Settles O40: `CLRERR` is `clearErr` and the acknowledgement, and neither writes anything but its own field. -/
theorem clrerrClearsOnlyErr : Obligations.ClrerrClearsOnlyErr := by
  unfold Obligations.ClrerrClearsOnlyErr
  exact fun s => exec_clrerr s

/-- Settles O41: `RDERR` delivers the value of `ERR`, whose pattern in `R0` is `ERR` zero-extended (`enc16_toNat`). -/
theorem rderrCopiesErr : Obligations.RderrCopiesErr := by
  unfold Obligations.RderrCopiesErr
  intro s
  rw [exec_rderr, deliver_id, enc16_toNat]

end Sys2Proof.Machine
end

section
/-! The error indicator along a run (60_exceptions.md R222, R223, R230). `ERR` after one operation is DOMAIN, NONE or
unchanged according to the table of R222; `errAfter` is that rule on command words, and a run folds it. -/

namespace Sys2Proof.Machine

open Sys2Proof.Claim

/-- Settles O8: `step_pending_nil`, the law of the idle step. -/
theorem idleUnitKeepsState : Obligations.IdleUnitKeepsState := by
  unfold Obligations.IdleUnitKeepsState
  exact fun s h => step_pending_nil h

/-! ### One operation -/

/-- `ERR` after `CLRERR` (44_system.md R210). -/
theorem exec_err_of_clrerr {i : Instr} {s t : State} (hi : i = .clrerr) (h : exec i s = .next t) : t.err = 0 := by
  subst hi
  cases h
  rfl

/-- The sentinels of `TAN` on its asymptotes (42_circular_cordic.md R147). -/
theorem tanCore_asymptote (rom : Rom) (f : Nat) : tanCore rom 16384 f = 32767 := if_pos rfl

theorem tanCore_neg_asymptote (rom : Rom) (f : Nat) : tanCore rom (-16384) f = -32767 :=
  (if_neg (by decide)).trans (if_pos rfl)

/-- Settles O16: `ERR` by `Signals`, `CLRERR` or neither; the sentinels are the values of `sqrt_core` below zero and of
`TAN` on its asymptotes. -/
theorem onlyListedOperandsSignal : Obligations.OnlyListedOperandsSignal := by
  unfold Obligations.OnlyListedOperandsSignal
  intro i s t h
  refine ⟨fun hi => exec_err_of_signals hi h, fun hi => exec_err_of_clrerr hi h,
    fun hi hc => exec_err_of_not_signals hi hc h, ?_, ?_, ?_⟩
  · rintro x f rfl hx
    cases h
    rw [State.deliver_r0, sqrtCore_of_neg hx]
    rfl
  · rintro f rfl
    cases h
    rw [State.deliver_r0, tanCore_asymptote]
    rfl
  · rintro f rfl
    cases h
    rw [State.deliver_r0, tanCore_neg_asymptote]
    rfl

/-! ### One command word: `errAfter` follows the table of R222 -/

section
variable {c : CommandWord} {i : Instr} (e : BitVec 2)

theorem errAfter_of_illegal {why : IllegalReason} (hd : decode c = .illegal why) : errAfter e c = e := by
  rw [errAfter, hd]

theorem errAfter_of_signals (hd : decode c = .operation i) (hi : Signals i) : errAfter e c = 1 := by
  rw [errAfter, hd]
  cases i with
  | sqrt | tan => exact if_pos hi
  | _ => exact hi.elim

theorem errAfter_of_clrerr (hd : decode c = .operation .clrerr) : errAfter e c = 0 := by
  rw [errAfter, hd]

theorem errAfter_of_not_signals (hd : decode c = .operation i) (hi : ¬ Signals i) (hc : i ≠ .clrerr) :
    errAfter e c = e := by
  rw [errAfter, hd]
  cases i with
  | sqrt | tan => exact if_neg hi
  | clrerr => exact absurd rfl hc
  | _ => rfl

end

/-- The effect of a command word on `ERR` is `errAfter` (R223). -/
theorem commandEffect_err (s : State) (c : CommandWord) : (commandEffect s c).err = errAfter s.err c := by
  cases hd : decode c with
  | illegal why => rw [commandEffect_of_illegal hd, State.respond_err, errAfter_of_illegal _ hd]
  | operation i =>
    have h := exec_eq_commandEffect hd s
    by_cases hi : Signals i
    · rw [errAfter_of_signals _ hd hi]
      exact exec_err_of_signals hi h
    · by_cases hc : i = .clrerr
      · rw [errAfter_of_clrerr _ (hc ▸ hd)]
        exact exec_err_of_clrerr hc h
      · rw [errAfter_of_not_signals _ hd hi hc]
        exact exec_err_of_not_signals hi hc h

/-! ### A sequence of command words -/

/-- `ERR` after the effects of `ws` is the fold of `errAfter`: reading `ERR` commutes with each effect. -/
theorem foldl_commandEffect_err (ws : List CommandWord) (s : State) :
    (ws.foldl commandEffect s).err = ws.foldl errAfter s.err :=
  (List.foldl_hom State.err fun t c => (commandEffect_err t c).symm).symm

/-- Settles O19: the run over `ws` ends in the fold of their effects (`run_issue_map`), whose `ERR` is the fold of
`errAfter`. -/
theorem indicatorIsSticky : Obligations.IndicatorIsSticky := by
  unfold Obligations.IndicatorIsSticky
  intro ws s rest h
  exact ⟨_, run_issue_map ws s rest h, foldl_commandEffect_err ws s⟩

end Sys2Proof.Machine
end

section
/-! Reset and hazards (70_reset_and_hazards.md R240, R241, R245, R246). Both forms of reset are served by `applyReset`.
Across a run, which folds the effects of its words, `ERR` follows `errAfter` and `R1` is kept by every word that does
not write it. -/

namespace Sys2Proof.Machine

open Sys2Proof.Claim

/-! ### Reset -/

/-- Both forms of reset, between commands and during an operation, lead to the same state (R240, R241). -/
theorem step_reset {s : State} {e : HostEvent} {rest : List HostEvent} (h : s.pending = e :: rest)
    (he : e = .reset ∨ ∃ c, e = .resetDuring c) : step s = .next (State.applyReset { s with pending := rest }) := by
  rw [step_pending_cons h]
  obtain rfl | ⟨c, rfl⟩ := he <;> rfl

/-- Settles O9: `step_reset` for either event, and the fields of `applyReset`. -/
theorem resetEventClears : Obligations.ResetEventClears := by
  unfold Obligations.ResetEventClears
  intro s rest h
  refine ⟨State.applyReset { s with pending := rest }, ?_, rfl, rfl, rfl, rfl, rfl, rfl⟩
  obtain h | ⟨c, h⟩ := h
  · exact step_reset h (.inl rfl)
  · exact step_reset h (.inr ⟨c, rfl⟩)

/-! ### Clear, run, read -/

theorem decode_clrerr : decode 0xF00000000000 = .operation .clrerr := decode_of_matches (i := .clrerr) rfl

theorem decode_rderr : decode 0xF10000000000 = .operation .rderr := decode_of_matches (i := .rderr) rfl

section
variable {c : CommandWord}

/-- From a clear indicator, a command that does not signal leaves it clear, `CLRERR` included (60_exceptions.md
R223). -/
theorem errAfter_zero_of_not_signals {i : Instr} (hd : decode c = .operation i) (hi : ¬ Signals i) :
    errAfter 0 c = 0 := by
  by_cases hc : i = .clrerr
  · exact errAfter_of_clrerr 0 (hc ▸ hd)
  · exact errAfter_of_not_signals 0 hd hi hc

/-- `RDERR` copies `ERR`, zero-extended, to `R0` (44_system.md R211). -/
theorem commandEffect_r0_of_rderr (hd : decode c = .operation .rderr) (s : State) :
    (commandEffect s c).r0 = s.err.setWidth 16 := by
  have h := (exec_eq_commandEffect hd s).symm.trans (rderrCopiesErr s)
  exact congrArg State.r0 (Host.Outcome.next.inj h)

/-- After `CLRERR`, the command `c` and `RDERR`, `R0` is what `c` alone makes of a clear indicator. -/
theorem foldl_clear_run_read_r0 (c : CommandWord) (s : State) :
    ([0xF00000000000, c, 0xF10000000000].foldl commandEffect s).r0 = (errAfter 0 c).setWidth 16 := by
  simp only [List.foldl_cons, List.foldl_nil]
  rw [commandEffect_r0_of_rderr decode_rderr, commandEffect_err, commandEffect_err, errAfter_of_clrerr _ decode_clrerr]

/-- Settles O20: the run over the three words ends in the fold of their effects, and its `R0` is that of
`foldl_clear_run_read_r0`. -/
theorem clearRunReadAttributes : Obligations.ClearRunReadAttributes := by
  unfold Obligations.ClearRunReadAttributes
  intro c i s rest hd h
  refine ⟨_, run_issue_map [0xF00000000000, c, 0xF10000000000] s rest h, fun hi => ?_, fun hi => ?_⟩
  · exact (foldl_clear_run_read_r0 c s).trans (by rw [errAfter_of_signals 0 hd hi]; rfl)
  · exact (foldl_clear_run_read_r0 c s).trans (by rw [errAfter_zero_of_not_signals hd hi]; rfl)

/-! ### The upper latch -/

/-- A word that does not decode to an operation writing `R1` keeps `R1` and its mark; an illegal word is one of them
(10_state.md R23, 30_encoding.md R72). -/
theorem commandEffect_keeps_r1 (hc : ∀ i, decode c = .operation i → ¬ WritesR1 i) (s : State) :
    (commandEffect s c).r1 = s.r1 ∧ (commandEffect s c).r1Written = s.r1Written := by
  cases hd : decode c with
  | illegal why => exact commandEffect_of_illegal hd s ▸ ⟨State.respond_r1 s _, State.respond_r1Written s _⟩
  | operation i =>
    obtain ⟨_, hkeep, _⟩ := latchFrame i s _ (exec_eq_commandEffect hd s)
    exact hkeep (hc i hd)

end

/-- Keeping `R1` and its mark carries over from each word to the fold of their effects (R246). -/
theorem foldl_commandEffect_keeps_r1 {ws : List CommandWord}
    (hws : ∀ c ∈ ws, ∀ i, decode c = .operation i → ¬ WritesR1 i) (s : State) :
    (ws.foldl commandEffect s).r1 = s.r1 ∧ (ws.foldl commandEffect s).r1Written = s.r1Written := by
  induction ws generalizing s with
  | nil => exact ⟨rfl, rfl⟩
  | cons c ws ih =>
    obtain ⟨hc, hws⟩ := List.forall_mem_cons.mp hws
    obtain ⟨hr1, hwritten⟩ := commandEffect_keeps_r1 hc s
    rw [List.foldl_cons, ← hr1, ← hwritten]
    exact ih hws (commandEffect s c)

/-- Settles O21: the run over `ws` ends in the fold of their effects (`run_issue_map`), which keeps `R1`. -/
theorem upperLatchSurvives : Obligations.UpperLatchSurvives := by
  unfold Obligations.UpperLatchSurvives
  intro ws s rest h hws
  exact ⟨_, run_issue_map ws s rest h, foldl_commandEffect_keeps_r1 hws s⟩

end Sys2Proof.Machine
end
